-- ==== Sys2Proof/Word.lean ====
section
/-! DEFINITION. The machine's words: host-visible registers, field elements and
polynomials as coefficient lists. -/

namespace Sys2Proof

/-- A window register or integer register: 32 bits, bit 0 least significant (20_memory.md R62, 10_state.md R23). -/
abbrev Word := BitVec 32

/-- The home of an element register or of one polynomial coefficient. It is M_MAX bits wide in the
engine (10_state.md R21, R24) and M_MAX ≤ 16 (00_scope.md R7), so 16 bits hold every build. The bits
at and above M_MAX are zero: every write goes through `storeElem` (log 11, log 12). -/
abbrev Elem := BitVec 16

/-- A polynomial: entry j is the coefficient of x^j (10_state.md R24). Coefficients past the end of the
list are 0. A register holds it with no trailing zero entry, so equal polynomials are equal lists
(log 12). -/
abbrev Poly := List Elem

/-- Index of e0–e15 (30_encoding.md R92, class `e`). -/
abbrev EReg := Fin 16

/-- Index of r0–r15 (30_encoding.md R92, class `r`). -/
abbrev RReg := Fin 16

/-- Index of p0–p7 (30_encoding.md R92, class `p`). -/
abbrev PReg := Fin 8

end Sys2Proof
end

