-- ==== Sys2Proof/Syntax.lean ====
section
/-! DEFINITION. The command set: one constructor for each of the 44 rows of spec/opcode_table.json.
Operands stand in the assembler's order, destinations first (30_encoding.md R102). -/

namespace Sys2Proof

/-- A command with its operands (30_encoding.md R95). -/
inductive Instr where
  /-- 45_transfer.md R240 -/
  | nop
  /-- 45_transfer.md R241 -/
  | lde (d : EReg)
  /-- 45_transfer.md R242 -/
  | ste (a : EReg)
  /-- 45_transfer.md R243 -/
  | ldr (d : RReg)
  /-- 45_transfer.md R244 -/
  | str (a : RReg)
  /-- 45_transfer.md R245: `imm` is the raw 10-bit field -/
  | li (d : RReg) (imm : BitVec 10)
  /-- 45_transfer.md R250 -/
  | emov (d a : EReg)
  /-- 45_transfer.md R251 -/
  | rmov (d a : RReg)
  /-- 45_transfer.md R252 -/
  | pmov (d a : PReg)
  /-- 45_transfer.md R253 -/
  | pclr (d : PReg)
  /-- 45_transfer.md R246 -/
  | ldpc (d : PReg) (a : RReg)
  /-- 45_transfer.md R247 -/
  | stpc (a : PReg) (b : RReg)
  /-- 45_transfer.md R248 -/
  | ldpb (d : PReg) (a : RReg)
  /-- 45_transfer.md R249 -/
  | stpb (a : PReg) (b : RReg)
  /-- 45_transfer.md R254 -/
  | pget (d : EReg) (a : PReg) (b : RReg)
  /-- 45_transfer.md R255 -/
  | pset (d : PReg) (a : EReg) (b : RReg)
  /-- 45_transfer.md R256 -/
  | pdeg (d : RReg) (a : PReg)
  /-- 40_field.md R121 -/
  | buildf (a b : RReg)
  /-- 40_field.md R123 -/
  | fadd (d a b : EReg)
  /-- 40_field.md R124 -/
  | fmul (d a b : EReg)
  /-- 40_field.md R125 -/
  | finv (d a : EReg)
  /-- 40_field.md R126 -/
  | fpow (d a : EReg) (b : RReg)
  /-- 41_poly_gf2.md R141 -/
  | padd2 (d a b : PReg)
  /-- 41_poly_gf2.md R142 -/
  | pmul2 (d a b : PReg)
  /-- 41_poly_gf2.md R143: quotient `d`, remainder `c` -/
  | pdiv2 (d c a b : PReg)
  /-- 41_poly_gf2.md R144 -/
  | peval2 (d : EReg) (a : PReg) (b : EReg)
  /-- 41_poly_gf2.md R145 -/
  | pgcd2 (d a b : PReg)
  /-- 41_poly_gf2.md R146 -/
  | plcm2 (d a b : PReg)
  /-- 42_poly_gf2m.md R161 -/
  | paddm (d a b : PReg)
  /-- 42_poly_gf2m.md R162 -/
  | pmulm (d a b : PReg)
  /-- 42_poly_gf2m.md R163: quotient `d`, remainder `c` -/
  | pdivm (d c a b : PReg)
  /-- 42_poly_gf2m.md R164 -/
  | pevalm (d : EReg) (a : PReg) (b : EReg)
  /-- 42_poly_gf2m.md R165 -/
  | pgcdm (d a b : PReg)
  /-- 42_poly_gf2m.md R166 -/
  | plcmm (d a b : PReg)
  /-- 43_minpoly_generator.md R181 -/
  | minpoly (d : PReg) (a : EReg)
  /-- 43_minpoly_generator.md R183 -/
  | genb (d : PReg) (a : RReg)
  /-- 43_minpoly_generator.md R186: n in `a`, k in `b`, t in `c` -/
  | buildc (a b c : RReg) (nonsys : Bool)
  /-- 43_minpoly_generator.md R188 -/
  | genrd (d : PReg)
  /-- 44_codec.md R201 -/
  | enc (d a : PReg) (b : RReg)
  /-- 44_codec.md R205 -/
  | syn (d a : PReg) (b : RReg)
  /-- 44_codec.md R208 -/
  | pgz (d : PReg) (c : RReg) (a : PReg)
  /-- 44_codec.md R212 -/
  | chien (d : PReg) (c : RReg) (a : PReg)
  /-- 44_codec.md R215: corrected codeword `d`, message `c`, received word `a`, mask `b` -/
  | corr (d c a b : PReg)
  /-- 44_codec.md R219: message `d`, mask `c`, received word `a`, declared length `b` -/
  | dec (d c a : PReg) (b : RReg)
  deriving DecidableEq, Repr

end Sys2Proof
end

