-- ==== Sys2Proof/WellFormed.lean ====
section
/-! DEFINITION. Which terms of `Instr` are commands. Register indices and immediates carry their
bounds in their types (30_encoding.md R92, R93), so the one check left is 30_encoding.md R99. -/

namespace Sys2Proof

/-- 30_encoding.md R99: PDIV2, PDIVM, CORR and DEC must not name one register as both destinations. -/
def Instr.wellFormed (i : Instr) : Bool :=
  match i with
  | .pdiv2 d c _ _ | .pdivm d c _ _ | .corr d c _ _ | .dec d c _ _ => d != c
  | .nop | .lde .. | .ste .. | .ldr .. | .str .. | .li .. | .emov .. | .rmov .. | .pmov ..
  | .pclr .. | .ldpc .. | .stpc .. | .ldpb .. | .stpb .. | .pget .. | .pset .. | .pdeg ..
  | .buildf .. | .fadd .. | .fmul .. | .finv .. | .fpow ..
  | .padd2 .. | .pmul2 .. | .peval2 .. | .pgcd2 .. | .plcm2 ..
  | .paddm .. | .pmulm .. | .pevalm .. | .pgcdm .. | .plcmm ..
  | .minpoly .. | .genb .. | .buildc .. | .genrd ..
  | .enc .. | .syn .. | .pgz .. | .chien .. => true

end Sys2Proof
end

