-- ==== Sys2Proof/Decode.lean ====
section
/-! DEFINITION. The command word (30_encoding.md): fields, the opcode map, the total decoder that
rejects by name, and the encoder written from the same map. -/

namespace Sys2Proof

/-- The four register fields of a command word (30_encoding.md R91). -/
inductive FieldName where
  | D | A | B | C
  deriving DecidableEq, Repr

/-- What a register field names (30_encoding.md R92). -/
inductive FieldClass where
  | unused | elem | int | poly
  deriving DecidableEq, Repr

/-- What IMM may hold (30_encoding.md R93). -/
inductive ImmClass where
  | zero | simm10 | nonsys
  deriving DecidableEq, Repr

/-- Why a word is no command (30_encoding.md R96–R99, R101). -/
inductive Illegal where
  /-- R96: OP is not in the opcode map -/
  | reservedOpcode
  /-- R97: a field marked `-` is not 0 -/
  | nonzeroUnusedField (f : FieldName)
  /-- R98: a field of class `p` holds 8–15 -/
  | polyIndexTooLarge (f : FieldName)
  /-- R97: IMM, or IMM[9:1] for BUILDC, is not 0 -/
  | nonzeroImm
  /-- R99: D = C in a command with two polynomial destinations -/
  | sameDestinations
  deriving DecidableEq, Repr

/-- The commands without their operands. -/
inductive Op where
  | nop | lde | ste | ldr | str | li | emov | rmov | pmov | pclr
  | ldpc | stpc | ldpb | stpb | pget | pset | pdeg
  | buildf | fadd | fmul | finv | fpow
  | padd2 | pmul2 | pdiv2 | peval2 | pgcd2 | plcm2
  | paddm | pmulm | pdivm | pevalm | pgcdm | plcmm
  | minpoly | genb | buildc | genrd
  | enc | syn | pgz | chien | corr | dec
  deriving DecidableEq, Repr

/-- One row of the opcode map. `twoDest` marks the four commands of 30_encoding.md R99. -/
structure Format where
  code : Nat
  d : FieldClass
  a : FieldClass
  b : FieldClass
  c : FieldClass
  imm : ImmClass := .zero
  twoDest : Bool := false
  deriving DecidableEq, Repr

/-- The opcode map, row by row (30_encoding.md R95, R99). -/
def Op.format : Op → Format
  | .nop     => { code := 0x00, d := .unused, a := .unused, b := .unused, c := .unused }
  | .lde     => { code := 0x01, d := .elem,   a := .unused, b := .unused, c := .unused }
  | .ste     => { code := 0x02, d := .unused, a := .elem,   b := .unused, c := .unused }
  | .ldr     => { code := 0x03, d := .int,    a := .unused, b := .unused, c := .unused }
  | .str     => { code := 0x04, d := .unused, a := .int,    b := .unused, c := .unused }
  | .li      => { code := 0x05, d := .int,    a := .unused, b := .unused, c := .unused, imm := .simm10 }
  | .emov    => { code := 0x06, d := .elem,   a := .elem,   b := .unused, c := .unused }
  | .rmov    => { code := 0x07, d := .int,    a := .int,    b := .unused, c := .unused }
  | .pmov    => { code := 0x08, d := .poly,   a := .poly,   b := .unused, c := .unused }
  | .pclr    => { code := 0x09, d := .poly,   a := .unused, b := .unused, c := .unused }
  | .ldpc    => { code := 0x0A, d := .poly,   a := .int,    b := .unused, c := .unused }
  | .stpc    => { code := 0x0B, d := .unused, a := .poly,   b := .int,    c := .unused }
  | .ldpb    => { code := 0x0C, d := .poly,   a := .int,    b := .unused, c := .unused }
  | .stpb    => { code := 0x0D, d := .unused, a := .poly,   b := .int,    c := .unused }
  | .pget    => { code := 0x0E, d := .elem,   a := .poly,   b := .int,    c := .unused }
  | .pset    => { code := 0x0F, d := .poly,   a := .elem,   b := .int,    c := .unused }
  | .pdeg    => { code := 0x10, d := .int,    a := .poly,   b := .unused, c := .unused }
  | .buildf  => { code := 0x18, d := .unused, a := .int,    b := .int,    c := .unused }
  | .fadd    => { code := 0x19, d := .elem,   a := .elem,   b := .elem,   c := .unused }
  | .fmul    => { code := 0x1A, d := .elem,   a := .elem,   b := .elem,   c := .unused }
  | .finv    => { code := 0x1B, d := .elem,   a := .elem,   b := .unused, c := .unused }
  | .fpow    => { code := 0x1C, d := .elem,   a := .elem,   b := .int,    c := .unused }
  | .padd2   => { code := 0x20, d := .poly,   a := .poly,   b := .poly,   c := .unused }
  | .pmul2   => { code := 0x21, d := .poly,   a := .poly,   b := .poly,   c := .unused }
  | .pdiv2   => { code := 0x22, d := .poly,   a := .poly,   b := .poly,   c := .poly, twoDest := true }
  | .peval2  => { code := 0x23, d := .elem,   a := .poly,   b := .elem,   c := .unused }
  | .pgcd2   => { code := 0x24, d := .poly,   a := .poly,   b := .poly,   c := .unused }
  | .plcm2   => { code := 0x25, d := .poly,   a := .poly,   b := .poly,   c := .unused }
  | .paddm   => { code := 0x28, d := .poly,   a := .poly,   b := .poly,   c := .unused }
  | .pmulm   => { code := 0x29, d := .poly,   a := .poly,   b := .poly,   c := .unused }
  | .pdivm   => { code := 0x2A, d := .poly,   a := .poly,   b := .poly,   c := .poly, twoDest := true }
  | .pevalm  => { code := 0x2B, d := .elem,   a := .poly,   b := .elem,   c := .unused }
  | .pgcdm   => { code := 0x2C, d := .poly,   a := .poly,   b := .poly,   c := .unused }
  | .plcmm   => { code := 0x2D, d := .poly,   a := .poly,   b := .poly,   c := .unused }
  | .minpoly => { code := 0x30, d := .poly,   a := .elem,   b := .unused, c := .unused }
  | .genb    => { code := 0x31, d := .poly,   a := .int,    b := .unused, c := .unused }
  | .buildc  => { code := 0x32, d := .unused, a := .int,    b := .int,    c := .int, imm := .nonsys }
  | .genrd   => { code := 0x33, d := .poly,   a := .unused, b := .unused, c := .unused }
  | .enc     => { code := 0x38, d := .poly,   a := .poly,   b := .int,    c := .unused }
  | .syn     => { code := 0x39, d := .poly,   a := .poly,   b := .int,    c := .unused }
  | .pgz     => { code := 0x3A, d := .poly,   a := .poly,   b := .unused, c := .int }
  | .chien   => { code := 0x3B, d := .poly,   a := .poly,   b := .unused, c := .int }
  | .corr    => { code := 0x3C, d := .poly,   a := .poly,   b := .poly,   c := .poly, twoDest := true }
  | .dec     => { code := 0x3D, d := .poly,   a := .poly,   b := .int,    c := .poly, twoDest := true }

/-- All commands, in opcode order. -/
def Op.all : List Op :=
  [.nop, .lde, .ste, .ldr, .str, .li, .emov, .rmov, .pmov, .pclr,
   .ldpc, .stpc, .ldpb, .stpb, .pget, .pset, .pdeg,
   .buildf, .fadd, .fmul, .finv, .fpow,
   .padd2, .pmul2, .pdiv2, .peval2, .pgcd2, .plcm2,
   .paddm, .pmulm, .pdivm, .pevalm, .pgcdm, .plcmm,
   .minpoly, .genb, .buildc, .genrd,
   .enc, .syn, .pgz, .chien, .corr, .dec]

/-- The command an OP value stands for, or none where it is reserved (30_encoding.md R96). -/
def Op.ofCode (n : Nat) : Option Op :=
  Op.all.find? (fun o => o.format.code == n)

/-- OP, bits 31:26 (30_encoding.md R91). -/
def opField (w : Word) : Nat := (w.extractLsb' 26 6).toNat

/-- A register field of the word: D 25:22, A 21:18, B 17:14, C 13:10 (30_encoding.md R91). -/
def regField (w : Word) : FieldName → Fin 16
  | .D => (w.extractLsb' 22 4).toFin
  | .A => (w.extractLsb' 18 4).toFin
  | .B => (w.extractLsb' 14 4).toFin
  | .C => (w.extractLsb' 10 4).toFin

/-- IMM, bits 9:0 (30_encoding.md R91). -/
def immField (w : Word) : BitVec 10 := w.extractLsb' 0 10

/-- The three low bits of a field, which name a polynomial register (30_encoding.md R92). -/
def polyIndex (x : Fin 16) : PReg := Fin.ofNat 8 x.val

/-- The check of one register field against its class (30_encoding.md R97, R98, R101). -/
def checkField (k : FieldClass) (f : FieldName) (w : Word) : Option Illegal :=
  match k with
  | .unused => if (regField w f).val = 0 then none else some (.nonzeroUnusedField f)
  | .poly   => if (regField w f).val < 8 then none else some (.polyIndexTooLarge f)
  | .elem   => none
  | .int    => none

/-- The check of IMM against its class (30_encoding.md R93, R97, R101). -/
def checkImm (k : ImmClass) (w : Word) : Option Illegal :=
  match k with
  | .zero   => if immField w = 0 then none else some .nonzeroImm
  | .nonsys => if (immField w).toNat / 2 = 0 then none else some .nonzeroImm
  | .simm10 => none

/-- The check of D ≠ C (30_encoding.md R99, R101). -/
def checkDest (twoDest : Bool) (w : Word) : Option Illegal :=
  if twoDest && regField w .D == regField w .C then some .sameDestinations else none

/-- The checks of 30_encoding.md R101 after the opcode, in its order: the first that fails. -/
def checkWord (f : Format) (w : Word) : Option Illegal :=
  (checkField f.d .D w).or <|
  (checkField f.a .A w).or <|
  (checkField f.b .B w).or <|
  (checkField f.c .C w).or <|
  (checkImm f.imm w).or <|
  checkDest f.twoDest w

/-- The command a word that passed every check stands for. -/
def buildInstr (o : Op) (w : Word) : Instr :=
  let d := regField w .D
  let a := regField w .A
  let b := regField w .B
  let c := regField w .C
  match o with
  | .nop     => .nop
  | .lde     => .lde d
  | .ste     => .ste a
  | .ldr     => .ldr d
  | .str     => .str a
  | .li      => .li d (immField w)
  | .emov    => .emov d a
  | .rmov    => .rmov d a
  | .pmov    => .pmov (polyIndex d) (polyIndex a)
  | .pclr    => .pclr (polyIndex d)
  | .ldpc    => .ldpc (polyIndex d) a
  | .stpc    => .stpc (polyIndex a) b
  | .ldpb    => .ldpb (polyIndex d) a
  | .stpb    => .stpb (polyIndex a) b
  | .pget    => .pget d (polyIndex a) b
  | .pset    => .pset (polyIndex d) a b
  | .pdeg    => .pdeg d (polyIndex a)
  | .buildf  => .buildf a b
  | .fadd    => .fadd d a b
  | .fmul    => .fmul d a b
  | .finv    => .finv d a
  | .fpow    => .fpow d a b
  | .padd2   => .padd2 (polyIndex d) (polyIndex a) (polyIndex b)
  | .pmul2   => .pmul2 (polyIndex d) (polyIndex a) (polyIndex b)
  | .pdiv2   => .pdiv2 (polyIndex d) (polyIndex c) (polyIndex a) (polyIndex b)
  | .peval2  => .peval2 d (polyIndex a) b
  | .pgcd2   => .pgcd2 (polyIndex d) (polyIndex a) (polyIndex b)
  | .plcm2   => .plcm2 (polyIndex d) (polyIndex a) (polyIndex b)
  | .paddm   => .paddm (polyIndex d) (polyIndex a) (polyIndex b)
  | .pmulm   => .pmulm (polyIndex d) (polyIndex a) (polyIndex b)
  | .pdivm   => .pdivm (polyIndex d) (polyIndex c) (polyIndex a) (polyIndex b)
  | .pevalm  => .pevalm d (polyIndex a) b
  | .pgcdm   => .pgcdm (polyIndex d) (polyIndex a) (polyIndex b)
  | .plcmm   => .plcmm (polyIndex d) (polyIndex a) (polyIndex b)
  | .minpoly => .minpoly (polyIndex d) a
  | .genb    => .genb (polyIndex d) a
  | .buildc  => .buildc a b c ((immField w).getLsbD 0)
  | .genrd   => .genrd (polyIndex d)
  | .enc     => .enc (polyIndex d) (polyIndex a) b
  | .syn     => .syn (polyIndex d) (polyIndex a) b
  | .pgz     => .pgz (polyIndex d) c (polyIndex a)
  | .chien   => .chien (polyIndex d) c (polyIndex a)
  | .corr    => .corr (polyIndex d) (polyIndex c) (polyIndex a) (polyIndex b)
  | .dec     => .dec (polyIndex d) (polyIndex c) (polyIndex a) b

/-- The decoder: total, every word is a command or illegal by name (30_encoding.md R101). -/
def decode (w : Word) : Except Illegal Instr :=
  match Op.ofCode (opField w) with
  | none => .error .reservedOpcode
  | some o =>
    match checkWord o.format w with
    | some why => .error why
    | none => .ok (buildInstr o w)

/-- A word from its fields: `w = OP<<26 | D<<22 | A<<18 | B<<14 | C<<10 | IMM` (30_encoding.md R91). -/
def assemble (op d a b c imm : Nat) : Word :=
  BitVec.ofNat 32 (op * 2 ^ 26 + d * 2 ^ 22 + a * 2 ^ 18 + b * 2 ^ 14 + c * 2 ^ 10 + imm)

/-- The operands of a command as field values. -/
structure Operands where
  d : Nat := 0
  a : Nat := 0
  b : Nat := 0
  c : Nat := 0
  imm : Nat := 0
  deriving DecidableEq, Repr

/-- Which command an instruction is. -/
def Instr.op : Instr → Op
  | .nop => .nop | .lde .. => .lde | .ste .. => .ste | .ldr .. => .ldr | .str .. => .str
  | .li .. => .li | .emov .. => .emov | .rmov .. => .rmov | .pmov .. => .pmov | .pclr .. => .pclr
  | .ldpc .. => .ldpc | .stpc .. => .stpc | .ldpb .. => .ldpb | .stpb .. => .stpb
  | .pget .. => .pget | .pset .. => .pset | .pdeg .. => .pdeg
  | .buildf .. => .buildf | .fadd .. => .fadd | .fmul .. => .fmul | .finv .. => .finv
  | .fpow .. => .fpow
  | .padd2 .. => .padd2 | .pmul2 .. => .pmul2 | .pdiv2 .. => .pdiv2 | .peval2 .. => .peval2
  | .pgcd2 .. => .pgcd2 | .plcm2 .. => .plcm2
  | .paddm .. => .paddm | .pmulm .. => .pmulm | .pdivm .. => .pdivm | .pevalm .. => .pevalm
  | .pgcdm .. => .pgcdm | .plcmm .. => .plcmm
  | .minpoly .. => .minpoly | .genb .. => .genb | .buildc .. => .buildc | .genrd .. => .genrd
  | .enc .. => .enc | .syn .. => .syn | .pgz .. => .pgz | .chien .. => .chien
  | .corr .. => .corr | .dec .. => .dec

/-- Where each operand goes (30_encoding.md R95, R102). -/
def Instr.operands : Instr → Operands
  | .nop => {}
  | .lde d => { d := d }
  | .ste a => { a := a }
  | .ldr d => { d := d }
  | .str a => { a := a }
  | .li d imm => { d := d, imm := imm.toNat }
  | .emov d a => { d := d, a := a }
  | .rmov d a => { d := d, a := a }
  | .pmov d a => { d := d, a := a }
  | .pclr d => { d := d }
  | .ldpc d a => { d := d, a := a }
  | .stpc a b => { a := a, b := b }
  | .ldpb d a => { d := d, a := a }
  | .stpb a b => { a := a, b := b }
  | .pget d a b => { d := d, a := a, b := b }
  | .pset d a b => { d := d, a := a, b := b }
  | .pdeg d a => { d := d, a := a }
  | .buildf a b => { a := a, b := b }
  | .fadd d a b => { d := d, a := a, b := b }
  | .fmul d a b => { d := d, a := a, b := b }
  | .finv d a => { d := d, a := a }
  | .fpow d a b => { d := d, a := a, b := b }
  | .padd2 d a b => { d := d, a := a, b := b }
  | .pmul2 d a b => { d := d, a := a, b := b }
  | .pdiv2 d c a b => { d := d, a := a, b := b, c := c }
  | .peval2 d a b => { d := d, a := a, b := b }
  | .pgcd2 d a b => { d := d, a := a, b := b }
  | .plcm2 d a b => { d := d, a := a, b := b }
  | .paddm d a b => { d := d, a := a, b := b }
  | .pmulm d a b => { d := d, a := a, b := b }
  | .pdivm d c a b => { d := d, a := a, b := b, c := c }
  | .pevalm d a b => { d := d, a := a, b := b }
  | .pgcdm d a b => { d := d, a := a, b := b }
  | .plcmm d a b => { d := d, a := a, b := b }
  | .minpoly d a => { d := d, a := a }
  | .genb d a => { d := d, a := a }
  | .buildc a b c ns => { a := a, b := b, c := c, imm := ns.toNat }
  | .genrd d => { d := d }
  | .enc d a b => { d := d, a := a, b := b }
  | .syn d a b => { d := d, a := a, b := b }
  | .pgz d c a => { d := d, a := a, c := c }
  | .chien d c a => { d := d, a := a, c := c }
  | .corr d c a b => { d := d, a := a, b := b, c := c }
  | .dec d c a b => { d := d, a := a, b := b, c := c }

/-- The encoder: the command word of an instruction (30_encoding.md R91, R95). -/
def encode (i : Instr) : Word :=
  let x := i.operands
  assemble i.op.format.code x.d x.a x.b x.c x.imm

/-- What the decoder reads from a word numbered as spec/opcode_table.json numbers it: `w`'s low `nbits`
bits, with every bit above them 0. A command is one 32-bit word (30_encoding.md R90). -/
def decodeTableWord (nbits w : Nat) : Option Instr :=
  match decode (BitVec.ofNat 32 (w % 2 ^ nbits)) with
  | .ok i => some i
  | .error _ => none

end Sys2Proof
end

