-- ==== Sys2Proof/Machine/Poly.lean ====
section
/-! DEFINITION. Polynomials as coefficient lists: the operations of GF(2)[x] and GF(2^m)[x], written
once over the coefficient arithmetic (41_poly_gf2.md, 42_poly_gf2m.md). -/

namespace Sys2Proof.Machine

/-- The low `n` bits of a value: `v[n−1:0]` (00_scope.md R9, R12). `fe` is this with n = m, `bit0` with
n = 1. -/
def lowBits (n : Nat) (v : Elem) : Elem := BitVec.ofNat 16 (v.toNat % 2 ^ n)

/-- Coefficient multiplication and inverse; addition is XOR in every ring here (00_scope.md R13). -/
structure Arith where
  mul : Elem → Elem → Elem
  inv : Elem → Elem

/-- GF(2): multiplication is AND, and 1 is its own inverse (40_field.md R127). -/
def Arith.gf2 : Arith := { mul := fun a b => a &&& b, inv := fun a => a }

/-- Coefficient j (10_state.md R24). -/
def Poly.coef (p : Poly) (j : Nat) : Elem := p.getD j 0

/-- Drop trailing zero coefficients: "trailing zero coefficients are semantically irrelevant and must be
trimmed before degree comparisons" (00_scope.md R12). -/
def Poly.trim : Poly → Poly
  | [] => []
  | a :: as =>
    match Poly.trim as with
    | [] => if a = 0 then [] else [a]
    | t => a :: t

/-- "index of highest nonzero coefficient", −1 for the zero polynomial (00_scope.md R12). -/
def Poly.deg (p : Poly) : Int := (Poly.trim p).length - 1

/-- The leading coefficient of a trimmed polynomial. -/
def Poly.lead (p : Poly) : Elem := Poly.coef p (p.length - 1)

/-- The polynomial with coefficients `f 0 … f (n−1)`. -/
def Poly.tabulate (n : Nat) (f : Nat → Elem) : Poly := Poly.trim ((List.range n).map f)

/-- The projection of a register to n-bit coefficients: `proj2` is n = 1, `projm` is n = m
(00_scope.md R12). -/
def Poly.proj (n : Nat) (p : Poly) : Poly := Poly.trim (p.map (lowBits n))

/-- Coefficient-wise XOR, not trimmed. -/
def Poly.xorCoefs : Poly → Poly → Poly
  | [], q => q
  | p, [] => p
  | a :: p, b :: q => (a ^^^ b) :: Poly.xorCoefs p q

/-- Sum, and difference (41_poly_gf2.md R141, 42_poly_gf2m.md R161). -/
def Poly.add (p q : Poly) : Poly := Poly.trim (Poly.xorCoefs p q)

/-- c · p. -/
def Poly.scale (A : Arith) (c : Elem) (p : Poly) : Poly := Poly.trim (p.map (A.mul c))

/-- x^s · p. -/
def Poly.shift (s : Nat) (p : Poly) : Poly := Poly.trim (List.replicate s 0 ++ p)

/-- c · x^s. -/
def Poly.monomial (c : Elem) (s : Nat) : Poly := Poly.shift s [c]

/-- Product: coefficient j is the sum over i of a_i · b_{j−i} (41_poly_gf2.md R142,
42_poly_gf2m.md R162), as (a_0 + x·a')·b = a_0·b + x·(a'·b). -/
def Poly.mul (A : Arith) : Poly → Poly → Poly
  | [], _ => []
  | a :: as, b => Poly.add (Poly.scale A a b) (Poly.shift 1 (Poly.mul A as b))

/-- The division loop of 41_poly_gf2.md R143 and 42_poly_gf2m.md R163 on a nonzero trimmed divisor `b`
whose leading coefficient has inverse `il`; `q` and `r` are the loop's variables. Each turn lowers the
degree of `r`, so the dividend's length is enough turns (log 15). -/
def Poly.divLoop (A : Arith) (b : Poly) (il : Elem) : Nat → Poly → Poly → Poly × Poly
  | 0, q, r => (q, r)
  | n + 1, q, r =>
    if b.length ≤ r.length then
      let s := r.length - b.length
      let c := A.mul (Poly.lead r) il
      Poly.divLoop A b il n (Poly.add q (Poly.monomial c s))
        (Poly.add r (Poly.shift s (Poly.scale A c b)))
    else (q, r)

/-- (quotient, remainder) of trimmed `a` by trimmed `b`. The commands raise an error before they divide
by 0; here `(0, a)` stands in that case. -/
def Poly.divMod (A : Arith) (a b : Poly) : Poly × Poly :=
  if b = [] then ([], a) else Poly.divLoop A b (A.inv (Poly.lead b)) a.length [] a

/-- The Euclidean loop of 41_poly_gf2.md R145 and 42_poly_gf2m.md R165. The degree of `v` falls at every
turn, so `v.length + 1` turns are enough (log 15). -/
def Poly.gcdLoop (A : Arith) : Nat → Poly → Poly → Poly
  | 0, u, _ => u
  | n + 1, u, v => if v = [] then u else Poly.gcdLoop A n v (Poly.divMod A u v).2

/-- Every coefficient times the inverse of the leading one; 0 stays 0 (42_poly_gf2m.md R165). -/
def Poly.monic (A : Arith) (u : Poly) : Poly :=
  if u = [] then [] else Poly.scale A (A.inv (Poly.lead u)) u

/-- The monic greatest common divisor (42_poly_gf2m.md R165). Over GF(2) every nonzero polynomial is
monic already (41_poly_gf2.md R145). -/
def Poly.gcd (A : Arith) (u v : Poly) : Poly := Poly.monic A (Poly.gcdLoop A (v.length + 1) u v)

/-- The monic least common multiple: 0 with a zero operand, else (a·b) div gcd(a, b)
(41_poly_gf2.md R146, 42_poly_gf2m.md R166). -/
def Poly.lcm (A : Arith) (a b : Poly) : Poly :=
  if a = [] ∨ b = [] then []
  else Poly.monic A (Poly.divMod A (Poly.mul A a b) (Poly.gcd A a b)).1

/-- Horner evaluation at `x` (42_poly_gf2m.md R164). -/
def Poly.eval (A : Arith) (p : Poly) (x : Elem) : Elem :=
  p.foldr (fun a v => A.mul v x ^^^ a) 0

end Sys2Proof.Machine
end

