-- ==== Sys2Proof/Config.lean ====
section
/-! DEFINITION. What one build of the engine fixes: the parameters of 00_scope.md R7 and the
identification constants of 10_state.md R37. -/

namespace Sys2Proof

/-- The parameters a build fixes (00_scope.md R7): "A model takes them as arguments". The state
carries them (`State.cfg`), so every statement about every state is about every build (log 2). -/
structure Params where
  /-- M_MAX: largest extension degree, and the width of element registers and coefficients. -/
  mMax : Nat
  /-- T_MAX: largest designed error count BUILDC accepts. -/
  tMax : Nat
  /-- POLY_LEN: coefficients held by each polynomial register. -/
  polyLen : Nat
  /-- ENGINE_BASE: bus address of window offset 0x00. -/
  engineBase : Nat
  deriving DecidableEq, Repr

/-- The constraints of 00_scope.md R7 on the parameters. -/
abbrev Params.Valid (c : Params) : Prop :=
  (1 ≤ c.mMax ∧ c.mMax ≤ 16) ∧ c.tMax ≤ 255 ∧
  (2 ^ c.mMax ≤ c.polyLen ∧ c.polyLen % 32 = 0 ∧ c.polyLen / 32 ≤ 65535) ∧
  c.engineBase % 256 = 0

/-- The build that `State.reset` is of: the parameters 95_test_vectors.md takes for its vectors
(M_MAX = 8, T_MAX = 8, POLY_LEN = 256), with the window at bus address 0. DESIGN CHOICE, log 2. -/
def Config.build : Params :=
  { mMax := 8, tMax := 8, polyLen := 256, engineBase := 0 }

/-- ID register (10_state.md R37). -/
def Config.idWord : Word := 0x4746324D

/-- REV register (10_state.md R37). -/
def Config.revWord : Word := 1

/-- Bytes of the register window (20_memory.md R60). -/
def Config.windowBytes : Nat := 256

end Sys2Proof
end

