-- ==== Sys2Proof/Machine/State.lean ====
section
/-! DEFINITION. The state of the engine as plain data, its reset value, and the reasons a step can
stop (10_state.md). -/

namespace Sys2Proof.Machine

/-- FIELD state (10_state.md R28, R30, R31, R33). The tables hold the empty list at reset; an entry past
the end of a table reads 0. -/
structure FieldState where
  /-- FV: a field is built -/
  fv : Bool
  /-- FIELD_M: the extension degree m -/
  m : Word
  /-- FIELD_POLY: bit j is the coefficient of x^j of the primitive polynomial -/
  poly : Word
  /-- ALOG: entry i is α^i -/
  alog : List Elem
  /-- LOG: entry v is the exponent of the element v -/
  log : List Nat
  deriving DecidableEq, Repr

/-- CODE state (10_state.md R28, R34, R35, R36). -/
structure CodeState where
  /-- CV: a code is built -/
  cv : Bool
  /-- CODE_N: codeword length -/
  n : Word
  /-- CODE_K: message length -/
  k : Word
  /-- CODE_T: designed error count -/
  t : Word
  /-- CODE_CFG bit 0: 0 systematic, 1 non-systematic -/
  nonsys : Bool
  /-- GEN: the generator polynomial -/
  gen : Poly
  /-- GEN_DEG: its degree -/
  genDeg : Word
  deriving DecidableEq, Repr

/-- The engine phase (10_state.md R44). -/
inductive Phase where
  | idle
  | executing
  | resetClear
  deriving DecidableEq, Repr

/-- What happens next around the engine. `bytes` is the access width, `addr` a bus address
(20_memory.md R61, R64). -/
inductive BusEvent where
  /-- a host read -/
  | read (addr bytes : Nat)
  /-- a host write -/
  | write (addr bytes : Nat) (v : Word)
  /-- the reset input is asserted and released (70_reset_and_hazards.md R320) -/
  | reset
  /-- the engine's turn: a completion, if one is enabled (20_memory.md R67, 60_exceptions.md R288) -/
  | engine
  deriving DecidableEq, Repr

/-- Everything the spec gives the engine (10_state.md R20), with the build's parameters and the model's
input list. -/
structure State where
  /-- the build's parameters; no step changes them (00_scope.md R7, log 2) -/
  cfg : Params
  /-- e0–e15 (10_state.md R21) -/
  e : Vector Elem 16
  /-- r0–r15 (10_state.md R23) -/
  r : Vector Word 16
  /-- p0–p7 (10_state.md R24) -/
  p : Vector Poly 8
  /-- FIELD state (10_state.md R30) -/
  field : FieldState
  /-- CODE state (10_state.md R34) -/
  code : CodeState
  /-- STATUS.F (10_state.md R27) -/
  f : Bool
  /-- STATUS.DST (10_state.md R27) -/
  dst : BitVec 2
  /-- CTRL.DONEIE (10_state.md R38) -/
  doneie : Bool
  /-- CTRL.ERRIE (10_state.md R38) -/
  errie : Bool
  /-- STATUS.DONE (10_state.md R39) -/
  done : Bool
  /-- STATUS.ERR (10_state.md R39) -/
  err : Bool
  /-- STATUS.OVR (10_state.md R39) -/
  ovr : Bool
  /-- STATUS.ECODE (10_state.md R39, 60_exceptions.md R281) -/
  ecode : BitVec 8
  /-- ERRCMD (10_state.md R40) -/
  errcmd : Word
  /-- DIN (10_state.md R41) -/
  din : Word
  /-- DOUT (10_state.md R42) -/
  dout : Word
  /-- engine phase (10_state.md R44); STATUS.BUSY is `phase ≠ idle` -/
  phase : Phase
  /-- the latched command word (10_state.md R44, 20_memory.md R66) -/
  latch : Word
  /-- MODEL's own: the bus events still to happen, first one first (log 1) -/
  agenda : List BusEvent
  /-- MODEL's own: the word the last host read returned (log 4) -/
  rdata : Word
  deriving DecidableEq, Repr

/-- Why the machine stops. -/
inductive Fault where
  /-- Raised by a host access whose bus address lies outside the 256-byte window: no such address exists
  for this engine (20_memory.md R60). Safe: nothing is claimed of what the platform does there (log 6). -/
  | addressOutsideWindow (addr : Nat)
  deriving DecidableEq, Repr

/-- Why the model has no meaning for a command. -/
inductive Refusal where
  /-- Raised by an arm of `exec` for a command that has no meaning yet. Safe. No arm raises it now. -/
  | notModelled (mnemonic : String)
  deriving DecidableEq, Repr

/-- What a step answers. -/
abbrev Result := Host.Outcome State Fault Refusal

/-- FIELD state after reset (10_state.md R45). -/
def FieldState.reset : FieldState :=
  { fv := false, m := 0, poly := 0, alog := [], log := [] }

/-- CODE state after reset (10_state.md R45). -/
def CodeState.reset : CodeState :=
  { cv := false, n := 0, k := 0, t := 0, nonsys := false, gen := [], genDeg := 0 }

/-- The state right after reset of the build `c`: 10_state.md R45, in phase RESET_CLEAR
(70_reset_and_hazards.md R320). `latch`, `agenda` and `rdata` are the model's choice (log 5, 1, 4). -/
def State.resetOf (c : Params) : State :=
  { cfg := c
    e := Vector.replicate 16 0
    r := Vector.replicate 16 0
    p := Vector.replicate 8 []
    field := FieldState.reset
    code := CodeState.reset
    f := false
    dst := 0
    doneie := false
    errie := false
    done := false
    err := false
    ovr := false
    ecode := 0
    errcmd := 0
    din := 0
    dout := 0
    phase := .resetClear
    latch := 0
    agenda := []
    rdata := 0 }

/-- The machine right after reset, for the build `Config.build` (log 2). -/
def State.reset : State := State.resetOf Config.build

end Sys2Proof.Machine
end

