-- ==== Sys2Proof/Machine/Field.lean ====
section
/-! DEFINITION. The field engine: table construction and arithmetic on the tables (40_field.md,
10_state.md R30, R31). -/

namespace Sys2Proof.Machine

/-- Multiply by α = x mod P: shift, and reduce by P where bit m comes out (40_field.md R122). -/
def mulAlpha (m : Nat) (P x : Word) : Word :=
  if (x <<< 1).getLsbD m then (x <<< 1) ^^^ P else x <<< 1

/-- The loop of 40_field.md R122 with `k` turns left and the current power `x`: the remaining ALOG entries,
or none where the order of α is not 2^m − 1. -/
def alogFrom (m : Nat) (P : Word) : Nat → Word → Option (List Elem)
  | 0, x => if x = 1 then some [] else none
  | k + 1, x =>
    if mulAlpha m P x = 1 ∧ 0 < k then none
    else (alogFrom m P k (mulAlpha m P x)).map (fun l => x.setWidth 16 :: l)

/-- LOG from ALOG: LOG[v] = i exactly when ALOG[i] = v (10_state.md R31). LOG[0] is never read and is 0
(log 10). -/
def logTable (m : Nat) (alog : List Elem) : List Nat :=
  (List.range (2 ^ m)).map (fun v => if v = 0 then 0 else alog.idxOf (BitVec.ofNat 16 v))

/-- `field_tables(m, P)` (40_field.md R122): ALOG and LOG, or none where P is not primitive. -/
def fieldTables (m : Nat) (P : Word) : Option (List Elem × List Nat) :=
  (alogFrom m P (2 ^ m - 1) 1).map (fun alog => (alog, logTable m alog))

/-- "degree must be exactly m" (40_field.md R121). -/
def hasDegree (m : Nat) (P : Word) : Bool := P >>> (m + 1) == 0 && P.getLsbD m

/-- m as a number (10_state.md R30). -/
def FieldState.deg (F : FieldState) : Nat := F.m.toNat

/-- q1 = 2^m − 1 (00_scope.md R12). -/
def FieldState.q1 (F : FieldState) : Nat := 2 ^ F.deg - 1

/-- `fe(v) = v[m−1:0]` (00_scope.md R12). -/
def FieldState.fe (F : FieldState) (v : Elem) : Elem := lowBits F.deg v

/-- ALOG[i]. -/
def FieldState.alogAt (F : FieldState) (i : Nat) : Elem := F.alog.getD i 0

/-- LOG[v]. -/
def FieldState.logAt (F : FieldState) (v : Elem) : Nat := F.log.getD v.toNat 0

/-- Field multiplication (40_field.md R124). -/
def FieldState.mul (F : FieldState) (a b : Elem) : Elem :=
  if a = 0 ∨ b = 0 then 0 else F.alogAt ((F.logAt a + F.logAt b) % F.q1)

/-- Inverse of a nonzero element (40_field.md R125). -/
def FieldState.inv (F : FieldState) (a : Elem) : Elem :=
  F.alogAt ((F.q1 - F.logAt a) % F.q1)

/-- Power of a nonzero element: the exact integer product, then the non-negative remainder
(40_field.md R126). -/
def FieldState.pow (F : FieldState) (a : Elem) (E : Int) : Elem :=
  F.alogAt ((F.logAt a * E) % (F.q1 : Int)).toNat

/-- α^i (10_state.md R30, R31). -/
def FieldState.alphaPow (F : FieldState) (i : Nat) : Elem := F.alogAt (i % F.q1)

/-- α^{−i} = ALOG[(q1 − i) mod q1] (44_codec.md R212). -/
def FieldState.alphaNegPow (F : FieldState) (i : Nat) : Elem := F.alogAt ((F.q1 - i) % F.q1)

/-- The field's coefficient arithmetic. -/
def FieldState.arith (F : FieldState) : Arith := { mul := F.mul, inv := F.inv }

end Sys2Proof.Machine
end

