-- ==== Sys2Proof/Machine/Operands.lean ====
section
/-! DEFINITION. Every way a command reads an operand: raw registers, the projections of 00_scope.md R12,
bit vectors of a declared length (44_codec.md R200), indices and immediates. -/

namespace Sys2Proof.Machine

/-- e[i], all M_MAX bits (00_scope.md R10). -/
def State.readE (s : State) (i : EReg) : Elem := s.e[i.val]

/-- r[i], 32 bits (00_scope.md R10). -/
def State.readR (s : State) (i : RReg) : Word := s.r[i.val]

/-- p[i] as a whole (00_scope.md R10). -/
def State.readP (s : State) (i : PReg) : Poly := s.p[i.val]

/-- `fe(e[i])` (00_scope.md R12, 40_field.md R120). -/
def State.feReg (s : State) (i : EReg) : Elem := s.field.fe (s.readE i)

/-- `bit0(e[i])` (00_scope.md R12, 41_poly_gf2.md R144). -/
def State.bitReg (s : State) (i : EReg) : Elem := lowBits 1 (s.readE i)

/-- `proj2(p[i])` (00_scope.md R12, 41_poly_gf2.md R140). -/
def State.proj2 (s : State) (i : PReg) : Poly := Poly.proj 1 (s.readP i)

/-- `projm(p[i])` (00_scope.md R12, 42_poly_gf2m.md R160). -/
def State.projm (s : State) (i : PReg) : Poly := Poly.proj s.field.deg (s.readP i)

/-- A bit-vector operand of length L: Σ_{j<L} bit0(p[j]) x^j (44_codec.md R200). -/
def bitVector (L : Nat) (P : Poly) : Poly := Poly.tabulate L (fun j => lowBits 1 (Poly.coef P j))

/-- An integer register read as unsigned: a degree, code parameter, coefficient or word index
(10_state.md R23). -/
def State.natReg (s : State) (i : RReg) : Nat := (s.readR i).toNat

/-- An integer register read as signed two's complement: FPOW's exponent (10_state.md R23,
40_field.md R126). -/
def State.intReg (s : State) (i : RReg) : Int := (s.readR i).toInt

/-- `sext_32(IMM)`, LI's operand (30_encoding.md R93, 45_transfer.md R245). -/
def immOperand (imm : BitVec 10) : Word := imm.signExtend 32

/-- DIN's low bits as an element, before the register takes its M_MAX bits (45_transfer.md R241). -/
def elemOfWord (w : Word) : Elem := w.setWidth 16

/-- `zext_32` of an element or coefficient (45_transfer.md R242, R247). -/
def wordOfElem (v : Elem) : Word := v.setWidth 32

/-- A coefficient index lies inside a polynomial register (45_transfer.md R246). -/
def State.coefIndexOk (s : State) (j : Nat) : Bool := decide (j < s.cfg.polyLen)

/-- A word index lies inside a polynomial register (45_transfer.md R248). -/
def State.wordIndexOk (s : State) (w : Nat) : Bool := decide (w < s.cfg.polyLen / 32)

/-- P with coefficient j replaced by v (45_transfer.md R246, R255). -/
def setCoef (P : Poly) (j : Nat) (v : Elem) : Poly :=
  Poly.tabulate (max P.length (j + 1)) (fun i => if i = j then v else Poly.coef P i)

/-- P with coefficients 32w … 32w+31 replaced by the bits of a word (45_transfer.md R248). -/
def setBits (P : Poly) (w : Nat) (x : Word) : Poly :=
  Poly.tabulate (max P.length (32 * w + 32)) (fun i =>
    if 32 * w ≤ i ∧ i < 32 * w + 32 then (if x.getLsbD (i - 32 * w) then 1 else 0)
    else Poly.coef P i)

/-- Σ_{i<32} bit0(P[32w + i]) · 2^i (45_transfer.md R249). -/
def getBits (P : Poly) (w : Nat) : Word :=
  BitVec.ofNat 32 (((List.range 32).map (fun i => ((Poly.coef P (32 * w + i)).getLsbD 0).toNat * 2 ^ i)).sum)

/-- A degree as a 32-bit two's complement word (45_transfer.md R256). -/
def degWord (d : Int) : Word := BitVec.ofInt 32 d

end Sys2Proof.Machine
end

