-- ==== Sys2Proof/Machine/Codec.lean ====
section
/-! DEFINITION. The codec's algorithms: encoder, syndromes, PGZ with its linear solver, Chien search,
message recovery (44_codec.md R202–R217). -/

namespace Sys2Proof.Machine

/-- CODE_N, CODE_K, CODE_T as numbers (10_state.md R34). -/
def CodeState.nNat (c : CodeState) : Nat := c.n.toNat
def CodeState.kNat (c : CodeState) : Nat := c.k.toNat
def CodeState.tNat (c : CodeState) : Nat := c.t.toNat

/-- `encode(msg)` (44_codec.md R202). -/
def encodeMsg (c : CodeState) (msg : Poly) : Poly :=
  if c.nonsys then Poly.mul Arith.gf2 msg c.gen
  else
    let sh := Poly.shift (c.nNat - c.kNat) msg
    Poly.add sh (Poly.divMod Arith.gf2 sh c.gen).2

/-- `recover(c)`: the message and the consistency check (44_codec.md R216, R217). -/
def recoverMsg (c : CodeState) (w : Poly) : Poly × Bool :=
  let qr := Poly.divMod Arith.gf2 w c.gen
  let msg :=
    if c.nonsys then Poly.tabulate c.kNat (Poly.coef qr.1)
    else Poly.tabulate c.kNat (fun j => Poly.coef w (c.nNat - c.kNat + j))
  (msg, qr.2 == [] && encodeMsg c msg == w)

/-- The syndrome vector in the layout of 44_codec.md R206: S_i = rcv(α^i) for 1 ≤ i ≤ 2t, else 0
(44_codec.md R205). -/
def syndromes (F : FieldState) (t : Nat) (rcv : Poly) : Poly :=
  Poly.tabulate (2 * t + 1) (fun i => if i = 0 then 0 else Poly.eval F.arith rcv (F.alphaPow i))

/-- Every syndrome s_1 … s_{2t} is 0. -/
def allZero (t : Nat) (S : Poly) : Bool :=
  (List.range (2 * t)).all (fun i => Poly.coef S (i + 1) == 0)

/-- The augmented matrix [M_μ | b_μ], rows and columns from 0: entry (row, col) is s_{row+col+1} and the
last column is s_{μ+row+1} (44_codec.md R209). -/
def pgzMatrix (S : Poly) (μ : Nat) : List (List Elem) :=
  (List.range μ).map (fun row => (List.range (μ + 1)).map (fun col =>
    if col < μ then Poly.coef S (row + col + 1) else Poly.coef S (μ + row + 1)))

/-- Row `i` of a matrix. -/
def matRow (M : List (List Elem)) (i : Nat) : List Elem := M.getD i []

/-- Entry (i, j) of a matrix. -/
def matEntry (M : List (List Elem)) (i j : Nat) : Elem := (matRow M i).getD j 0

/-- The least row index ≥ col with a nonzero entry in the column (44_codec.md R210). -/
def findPivot (M : List (List Elem)) (col : Nat) : Option Nat :=
  (List.range M.length).find? (fun i => decide (col ≤ i) && matEntry M i col != 0)

/-- Row `i` after the column's elimination, with pivot row `pr` already scaled to a 1 in the column. -/
def eliminateRow (F : FieldState) (pr row : List Elem) (col : Nat) : List Elem :=
  if row.getD col 0 = 0 then row
  else List.zipWith (fun x y => x ^^^ F.mul (row.getD col 0) y) row pr

/-- One column of Gauss–Jordan: swap, scale, eliminate; none where the column has no pivot
(44_codec.md R210). -/
def gaussColumn (F : FieldState) (M : List (List Elem)) (col : Nat) : Option (List (List Elem)) :=
  match findPivot M col with
  | none => none
  | some piv =>
    let swapped := (M.set piv (matRow M col)).set col (matRow M piv)
    let pr := (matRow swapped col).map (F.mul (F.inv (matEntry swapped col col)))
    some ((List.range M.length).map (fun i =>
      if i = col then pr else eliminateRow F pr (matRow swapped i) col))

/-- `gauss_solve`: the solution x_1 … x_μ, or none where the matrix is singular (44_codec.md R210). -/
def gaussSolve (F : FieldState) (μ : Nat) (M : List (List Elem)) : Option (List Elem) :=
  ((List.range μ).foldlM (gaussColumn F) M).map (fun R => R.map (fun row => row.getD μ 0))

/-- Λ = 1 + Σ_j x_{μ+1−j} X^j (44_codec.md R208, R209). -/
def locatorOf (x : List Elem) : Poly := Poly.trim (1 :: x.reverse)

/-- The loop of 44_codec.md R208 from μ down to 1: the first nonsingular system's Λ and μ. -/
def pgzSearch (F : FieldState) (S : Poly) : Nat → Option (Poly × Nat)
  | 0 => none
  | μ + 1 =>
    match gaussSolve F (μ + 1) (pgzMatrix S (μ + 1)) with
    | some x => some (locatorOf x, μ + 1)
    | none => pgzSearch F S μ

/-- PGZ: Λ and μ, or none for Inconclusive (44_codec.md R208). -/
def pgzLocate (F : FieldState) (t : Nat) (S : Poly) : Option (Poly × Nat) :=
  match pgzSearch F S t with
  | some r => some r
  | none => if allZero t S then some ([1], 0) else none

/-- Position i is an error location: Λ(α^{−i}) = 0 (44_codec.md R212). -/
def isRoot (F : FieldState) (Λ : Poly) (i : Nat) : Bool :=
  Poly.eval F.arith Λ (F.alphaNegPow i) == 0

/-- The Chien mask over positions 0 … n−1 (44_codec.md R212). -/
def chienMask (F : FieldState) (n : Nat) (Λ : Poly) : Poly :=
  Poly.tabulate n (fun i => if isRoot F Λ i then 1 else 0)

/-- The number of located positions (44_codec.md R212). -/
def chienCount (F : FieldState) (n : Nat) (Λ : Poly) : Nat :=
  (List.range n).countP (isRoot F Λ)

/-- The count differs from Λ's true degree: UncorrectableError (44_codec.md R212). -/
def chienFail (F : FieldState) (n : Nat) (Λ : Poly) : Bool :=
  (chienCount F n Λ : Int) != Poly.deg Λ

end Sys2Proof.Machine
end

