-- ==== Sys2Proof/Machine/Ops.lean ====
section
/-! DEFINITION. The named operations over State: register writes, the success commit, taking an error
(the error commit) and clearing it, acceptance, reset, and the validity gates (20_memory.md R66–R68,
60_exceptions.md R281–R290, 70_reset_and_hazards.md R320, R321). -/

namespace Sys2Proof.Machine

/-- The error names of 60_exceptions.md R281. -/
inductive ErrorCode where
  | invalidFieldParameters
  | invalidCodeParameters
  | divisionByZero
  | divisionByZeroPolynomial
  | encodingInputLengthMismatch
  | decodingInputLengthMismatch
  | illegalInstruction
  | fieldNotBuilt
  | codeNotBuilt
  | polynomialOverflow
  | indexOutOfRange
  deriving DecidableEq, Repr

/-- ECODE of each error (60_exceptions.md R281). -/
def ErrorCode.code : ErrorCode → BitVec 8
  | .invalidFieldParameters      => 0x01
  | .invalidCodeParameters       => 0x02
  | .divisionByZero              => 0x03
  | .divisionByZeroPolynomial    => 0x04
  | .encodingInputLengthMismatch => 0x05
  | .decodingInputLengthMismatch => 0x06
  | .illegalInstruction          => 0x08
  | .fieldNotBuilt               => 0x09
  | .codeNotBuilt                => 0x0A
  | .polynomialOverflow          => 0x0B
  | .indexOutOfRange             => 0x0C

/-- What an element register or a coefficient keeps of a value: M_MAX bits (10_state.md R21, R24, log 11). -/
def storeElem (c : Params) (v : Elem) : Elem := lowBits c.mMax v

/-- What a polynomial register keeps of a polynomial: coefficients 0 … POLY_LEN−1, M_MAX bits each
(10_state.md R24, 00_scope.md R10, log 11), in canonical form. -/
def storePoly (c : Params) (P : Poly) : Poly := Poly.trim ((P.take c.polyLen).map (storeElem c))

/-- `e[i] <- v` (00_scope.md R10). -/
def State.writeE (s : State) (i : EReg) (v : Elem) : State :=
  { s with e := s.e.set i.val (storeElem s.cfg v) i.isLt }

/-- `r[i] <- v` (00_scope.md R10). -/
def State.writeR (s : State) (i : RReg) (v : Word) : State :=
  { s with r := s.r.set i.val v i.isLt }

/-- `p[i] <- P` (00_scope.md R10). -/
def State.writeP (s : State) (i : PReg) (P : Poly) : State :=
  { s with p := s.p.set i.val (storePoly s.cfg P) i.isLt }

/-- `DOUT <- v` (10_state.md R42). -/
def State.writeDout (s : State) (v : Word) : State := { s with dout := v }

/-- What success and error commits share: DONE ← 1, BUSY ← 0, phase ← IDLE (20_memory.md R67). -/
def State.complete (s : State) : State := { s with done := true, phase := .idle }

/-- TAKING AN ERROR: the error commit, exactly the writes of 60_exceptions.md R284. The engine has no trap:
nothing but ECODE and ERRCMD is saved (R283, R289). -/
def State.errorCommit (s : State) (c : ErrorCode) : State :=
  { s with err := true, ecode := c.code, errcmd := s.latch, done := true, phase := .idle }

/-- THE RETURN: CTRL.CLRERR (60_exceptions.md R290). -/
def State.clearError (s : State) : State :=
  if s.err then { s with err := false, ecode := 0, errcmd := 0 } else s

/-- A command's success commit (20_memory.md R67). -/
def finish (s : State) : Result := .next s.complete

/-- `raise Error(c)` (00_scope.md R11, 60_exceptions.md R284). -/
def raise (c : ErrorCode) (s : State) : Result := .next (s.errorCommit c)

/-- The FV gate, before `k`, the rest of the command: FieldNotBuilt before any other operand check (40_field.md R120, 42_poly_gf2m.md R160,
43_minpoly_generator.md R180, 60_exceptions.md R287). -/
def needField (s : State) (k : Unit → Result) : Result :=
  if s.field.fv then k () else raise .fieldNotBuilt s

/-- The CV gate: CodeNotBuilt before any other operand check (43_minpoly_generator.md R180,
44_codec.md R200, 60_exceptions.md R287). -/
def needCode (s : State) (k : Unit → Result) : Result :=
  if s.code.cv then k () else raise .codeNotBuilt s

/-- A command with two polynomial destinations is illegal where they are one register
(30_encoding.md R99). The decoder rejects such a word; a term of `Instr` can still hold it (log 13). -/
def needDistinct (d c : PReg) (s : State) (k : Unit → Result) : Result :=
  if d = c then raise .illegalInstruction s else k ()

/-- The index gate of the transfer commands (45_transfer.md R239). -/
def needIndex (ok : Bool) (s : State) (k : Unit → Result) : Result :=
  if ok then k () else raise .indexOutOfRange s

/-- Write a product or lcm, or PolynomialOverflow where its degree is POLY_LEN or more
(41_poly_gf2.md R140, 42_poly_gf2m.md R160). -/
def finishIfFits (s : State) (d : PReg) (deg : Int) (P : Poly) : Result :=
  if deg ≥ s.cfg.polyLen then raise .polynomialOverflow s else finish (s.writeP d P)

/-- Acceptance of a command word (20_memory.md R66). -/
def State.accept (s : State) (w : Word) : State :=
  { s with latch := w, done := false, phase := .executing }

/-- A dropped CMD or DIN write (20_memory.md R68). -/
def State.drop (s : State) : State := { s with ovr := true }

/-- Hardware reset and CTRL.SRST: every piece of engine state takes its value of 10_state.md R45 and the
phase is RESET_CLEAR (70_reset_and_hazards.md R320, R321). The build's parameters stay, and so do the
host's pending accesses and the word it last read (log 16). -/
def State.resetEngine (s : State) : State :=
  { State.resetOf s.cfg with agenda := s.agenda, rdata := s.rdata }

/-- The end of the reset clear: the register files, the tables and GEN are zero and the engine is IDLE
with DONE unchanged (70_reset_and_hazards.md R320, log 9). What a write accepted during the clear put into
DONEIE, ERRIE and OVR stays; for DONEIE and ERRIE that is the model's choice (log 23). -/
def State.endClear (s : State) : State :=
  { s with
    e := Vector.replicate 16 0
    r := Vector.replicate 16 0
    p := Vector.replicate 8 []
    field := { s.field with alog := [], log := [] }
    code := { s.code with gen := [] }
    phase := .idle }

end Sys2Proof.Machine
end

