-- ==== Sys2Proof/Machine/Flags.lean ====
section
/-! DEFINITION. The decode-outcome flags F and DST, the STATUS and CTRL words, BUSY and the IRQ output
(10_state.md R27, R38, R39, 60_exceptions.md R292). -/

namespace Sys2Proof.Machine

/-- A decode outcome as DST codes it (10_state.md R27). -/
inductive DecodeStatus where
  | noError
  | corrected
  | uncorrectable
  deriving DecidableEq, Repr

/-- DST: 0 NOERROR, 1 CORRECTED, 2 UNCORRECTABLE (10_state.md R27). -/
def DecodeStatus.code : DecodeStatus → BitVec 2
  | .noError => 0
  | .corrected => 1
  | .uncorrectable => 2

/-- `F <- v` (10_state.md R27). -/
def State.writeF (s : State) (v : Bool) : State := { s with f := v }

/-- `DST <- out; F <- (out = UNCORRECTABLE)` (44_codec.md R219). -/
def State.writeOutcome (s : State) (out : DecodeStatus) : State :=
  { s with dst := out.code, f := out == .uncorrectable }

/-- STATUS.BUSY: a command or the reset clear is executing (10_state.md R39, R44). -/
def State.busy (s : State) : Bool := s.phase != .idle

/-- One bit at position `k` of a word. -/
def bitAt (k : Nat) (b : Bool) : Word := if b then BitVec.ofNat 32 (2 ^ k) else 0

/-- The STATUS register (10_state.md R39). -/
def State.statusWord (s : State) : Word :=
  bitAt 0 s.busy ||| bitAt 1 s.done ||| bitAt 2 s.err ||| bitAt 3 s.ovr ||| bitAt 4 s.f |||
  (s.dst.setWidth 32 <<< 5) ||| bitAt 7 s.field.fv ||| bitAt 8 s.code.cv |||
  (s.ecode.setWidth 32 <<< 16)

/-- The CTRL register as read: SRST, CLRERR and the reserved bits read 0 (10_state.md R38; during the
reset clear, log 23). -/
def State.ctrlWord (s : State) : Word := bitAt 2 s.doneie ||| bitAt 3 s.errie

/-- The IRQ output (60_exceptions.md R292). -/
def State.irq (s : State) : Bool := (s.done && s.doneie) || (s.err && s.errie)

end Sys2Proof.Machine
end

