-- ==== Sys2Proof/Machine/CodecCmds.lean ====
section
/-! DEFINITION. ENC, SYN, PGZ, CHIEN, CORR and DEC (44_codec.md R200–R219). Every command needs CV. -/

namespace Sys2Proof.Machine

/-- ENC (44_codec.md R201). -/
def execEnc (d a : PReg) (b : RReg) (s : State) : Result :=
  needCode s fun _ =>
    if s.readR b ≠ s.code.k then raise .encodingInputLengthMismatch s
    else finish (s.writeP d (encodeMsg s.code (bitVector s.code.kNat (s.readP a))))

/-- SYN (44_codec.md R205). -/
def execSyn (d a : PReg) (b : RReg) (s : State) : Result :=
  needCode s fun _ =>
    if s.readR b ≠ s.code.n then raise .decodingInputLengthMismatch s
    else finish (s.writeP d
      (syndromes s.field s.code.tNat (bitVector s.code.nNat (s.readP a))))

/-- PGZ: Λ to D, μ to C, or the Inconclusive outputs (44_codec.md R208). -/
def execPgz (d : PReg) (c : RReg) (a : PReg) (s : State) : Result :=
  needCode s fun _ =>
    match pgzLocate s.field s.code.tNat (s.projm a) with
    | some r => finish (((s.writeP d r.1).writeR c (BitVec.ofNat 32 r.2)).writeF false)
    | none => finish (((s.writeP d []).writeR c 0xFFFFFFFF).writeF true)

/-- CHIEN: mask to D, count to C, F where the count differs from the degree (44_codec.md R212). -/
def execChien (d : PReg) (c : RReg) (a : PReg) (s : State) : Result :=
  needCode s fun _ =>
    let n := s.code.nNat
    let Λ := s.projm a
    finish (((s.writeP d (chienMask s.field n Λ)).writeR c
      (BitVec.ofNat 32 (chienCount s.field n Λ))).writeF (chienFail s.field n Λ))

/-- CORR: codeword to D and message to C, or zeros and F (44_codec.md R215). -/
def execCorr (d c a b : PReg) (s : State) : Result :=
  needDistinct d c s fun _ => needCode s fun _ =>
    let w := Poly.add (bitVector s.code.nNat (s.readP a)) (bitVector s.code.nNat (s.readP b))
    let r := recoverMsg s.code w
    if r.2 then finish (((s.writeP d w).writeP c r.1).writeF false)
    else finish (((s.writeP d []).writeP c []).writeF true)

/-- What DEC computes from a received word: outcome, message, mask (44_codec.md R219). -/
def decodeReceived (s : State) (rcv : Poly) : DecodeStatus × Poly × Poly :=
  let n := s.code.nNat
  let t := s.code.tNat
  let S := syndromes s.field t rcv
  let fail := (DecodeStatus.uncorrectable, [], [])
  if allZero t S then
    let r := recoverMsg s.code rcv
    if r.2 then (.noError, r.1, []) else fail
  else match pgzLocate s.field t S with
    | none => fail
    | some l =>
      if chienFail s.field n l.1 then fail
      else
        let mask := chienMask s.field n l.1
        let r := recoverMsg s.code (Poly.add rcv mask)
        if r.2 then (.corrected, r.1, mask) else fail

/-- DEC: message to D, mask to C, DST and F (44_codec.md R219). -/
def execDec (d c a : PReg) (b : RReg) (s : State) : Result :=
  needDistinct d c s fun _ => needCode s fun _ =>
    if s.readR b ≠ s.code.n then raise .decodingInputLengthMismatch s
    else
      let out := decodeReceived s (bitVector s.code.nNat (s.readP a))
      finish (((s.writeP d out.2.1).writeP c out.2.2).writeOutcome out.1)

end Sys2Proof.Machine
end

