-- ==== Sys2Proof/Machine/FieldCmds.lean ====
section
/-! DEFINITION. The field engine commands (40_field.md R120–R126). -/

namespace Sys2Proof.Machine

/-- BUILDF: the range of m, then the degree of P, then the order of α; on success the field is replaced
and the code invalidated (40_field.md R121, R122, 10_state.md R28). -/
def execBuildf (a b : RReg) (s : State) : Result :=
  let m := s.natReg a
  let P := s.readR b
  if m < 1 ∨ s.cfg.mMax < m then raise .invalidFieldParameters s
  else if hasDegree m P = false then raise .invalidFieldParameters s
  else match fieldTables m P with
    | none => raise .invalidFieldParameters s
    | some tables =>
      finish { s with
        field := { fv := true, m := s.readR a, poly := P, alog := tables.1, log := tables.2 }
        code := CodeState.reset }

/-- FADD (40_field.md R123). -/
def execFadd (d a b : EReg) (s : State) : Result :=
  needField s fun _ => finish (s.writeE d (s.feReg a ^^^ s.feReg b))

/-- FMUL (40_field.md R124). -/
def execFmul (d a b : EReg) (s : State) : Result :=
  needField s fun _ => finish (s.writeE d (s.field.mul (s.feReg a) (s.feReg b)))

/-- FINV (40_field.md R125). -/
def execFinv (d a : EReg) (s : State) : Result :=
  needField s fun _ =>
    if s.feReg a = 0 then raise .divisionByZero s
    else finish (s.writeE d (s.field.inv (s.feReg a)))

/-- FPOW: the base 0 by the sign of the exponent, else the tables (40_field.md R126). -/
def execFpow (d a : EReg) (b : RReg) (s : State) : Result :=
  needField s fun _ =>
    if s.feReg a = 0 then
      if 0 < s.intReg b then finish (s.writeE d 0)
      else if s.intReg b = 0 then finish (s.writeE d 1)
      else raise .divisionByZero s
    else finish (s.writeE d (s.field.pow (s.feReg a) (s.intReg b)))

end Sys2Proof.Machine
end

