-- ==== Sys2Proof/Machine/Generator.lean ====
section
/-! DEFINITION. Frobenius orbits, minimal polynomials and the generator polynomial
(43_minpoly_generator.md R181–R185). -/

namespace Sys2Proof.Machine

/-- The conjugates after β, from `c` on, until the return to β. An orbit has at most m members, so m turns
are enough (43_minpoly_generator.md R182, log 15). -/
def orbitFrom (F : FieldState) (β : Elem) : Nat → Elem → List Elem
  | 0, _ => []
  | n + 1, c => if c = β then [] else c :: orbitFrom F β n (F.mul c c)

/-- `frobenius_orbit(β)` (43_minpoly_generator.md R182). -/
def frobeniusOrbit (F : FieldState) (β : Elem) : List Elem :=
  β :: orbitFrom F β F.deg (F.mul β β)

/-- The minimal polynomial: the product of x + c over the orbit (43_minpoly_generator.md R181). -/
def minimalPoly (F : FieldState) (β : Elem) : Poly :=
  (frobeniusOrbit F β).foldl (fun M c => Poly.mul F.arith M [c, 1]) [1]

/-- Add the cyclotomic coset of `e` to the covered exponents (43_minpoly_generator.md R184); a coset has at
most q1 members, the number of turns given (log 15). -/
def coverCoset (q1 : Nat) : Nat → Nat → List Nat → List Nat
  | 0, _, covered => covered
  | n + 1, e, covered =>
    if e ∈ covered then covered else coverCoset q1 n (2 * e % q1) (e :: covered)

/-- One turn of the loop of 43_minpoly_generator.md R184 for exponent `i`. -/
def generatorStep (F : FieldState) (acc : Poly × List Nat) (i : Nat) : Poly × List Nat :=
  if i % F.q1 ∈ acc.2 then acc
  else (Poly.mul Arith.gf2 acc.1 (minimalPoly F (F.alphaPow i)),
        coverCoset F.q1 F.q1 (i % F.q1) acc.2)

/-- `generator(t)`: each conjugacy class of α^1 … α^{2t} once (43_minpoly_generator.md R184, R185). -/
def generatorPoly (F : FieldState) (t : Nat) : Poly :=
  ((List.range' 1 (2 * t)).foldl (generatorStep F) ([1], [])).1

end Sys2Proof.Machine
end

