-- ==== Sys2Proof/Machine/GeneratorCmds.lean ====
section
/-! DEFINITION. MINPOLY, GENB, BUILDC and GENRD (43_minpoly_generator.md R180–R188). -/

namespace Sys2Proof.Machine

/-- MINPOLY (43_minpoly_generator.md R181). -/
def execMinpoly (d : PReg) (a : EReg) (s : State) : Result :=
  needField s fun _ => finish (s.writeP d (minimalPoly s.field (s.feReg a)))

/-- GENB: 2t + 1 is exact, T_MAX is not checked (43_minpoly_generator.md R183). -/
def execGenb (d : PReg) (a : RReg) (s : State) : Result :=
  needField s fun _ =>
    if s.field.q1 < 2 * s.natReg a + 1 then raise .invalidCodeParameters s
    else finish (s.writeP d (generatorPoly s.field (s.natReg a)))

/-- BUILDC: the range of (n, k), then T_MAX, then 2t + 1 ≤ q1, then deg g ≤ n − k
(43_minpoly_generator.md R186). -/
def execBuildc (a b c : RReg) (nonsys : Bool) (s : State) : Result :=
  needField s fun _ =>
    let n := s.natReg a
    let k := s.natReg b
    let t := s.natReg c
    if ¬ (1 ≤ k ∧ k ≤ n ∧ n ≤ s.field.q1) then raise .invalidCodeParameters s
    else if s.cfg.tMax < t then raise .invalidCodeParameters s
    else if s.field.q1 < 2 * t + 1 then raise .invalidCodeParameters s
    else
      let g := generatorPoly s.field t
      if ((n - k : Nat) : Int) < Poly.deg g then raise .invalidCodeParameters s
      else
        finish { s with
          code := { cv := true, n := s.readR a, k := s.readR b, t := s.readR c, nonsys := nonsys,
                    gen := storePoly s.cfg g, genDeg := degWord (Poly.deg g) } }

/-- GENRD (43_minpoly_generator.md R188). -/
def execGenrd (d : PReg) (s : State) : Result :=
  needCode s fun _ => finish (s.writeP d s.code.gen)

end Sys2Proof.Machine
end

