-- ==== Sys2Proof/Machine/PolyGf2.lean ====
section
/-! DEFINITION. Polynomial algebra over GF(2) (41_poly_gf2.md R140–R146). No command here needs a field. -/

namespace Sys2Proof.Machine

/-- PADD2 (41_poly_gf2.md R141). -/
def execPadd2 (d a b : PReg) (s : State) : Result :=
  finish (s.writeP d (Poly.add (s.proj2 a) (s.proj2 b)))

/-- PMUL2: PolynomialOverflow where deg a + deg b ≥ POLY_LEN, never with a zero factor
(41_poly_gf2.md R142). -/
def execPmul2 (d a b : PReg) (s : State) : Result :=
  if s.proj2 a = [] ∨ s.proj2 b = [] then finish (s.writeP d [])
  else finishIfFits s d (Poly.deg (s.proj2 a) + Poly.deg (s.proj2 b))
    (Poly.mul Arith.gf2 (s.proj2 a) (s.proj2 b))

/-- PDIV2: quotient to D, remainder to C (41_poly_gf2.md R143). -/
def execPdiv2 (d c a b : PReg) (s : State) : Result :=
  needDistinct d c s fun _ =>
    if s.proj2 b = [] then raise .divisionByZeroPolynomial s
    else
      let qr := Poly.divMod Arith.gf2 (s.proj2 a) (s.proj2 b)
      finish ((s.writeP d qr.1).writeP c qr.2)

/-- PEVAL2: the constant term at 0, the parity of the coefficients at 1 (41_poly_gf2.md R144). -/
def execPeval2 (d : EReg) (a : PReg) (b : EReg) (s : State) : Result :=
  finish (s.writeE d
    (if s.bitReg b = 0 then Poly.coef (s.proj2 a) 0
     else (s.proj2 a).foldl (fun v x => v ^^^ x) 0))

/-- PGCD2 (41_poly_gf2.md R145). -/
def execPgcd2 (d a b : PReg) (s : State) : Result :=
  finish (s.writeP d (Poly.gcd Arith.gf2 (s.proj2 a) (s.proj2 b)))

/-- PLCM2: only the degree of the result is checked (41_poly_gf2.md R146). -/
def execPlcm2 (d a b : PReg) (s : State) : Result :=
  let l := Poly.lcm Arith.gf2 (s.proj2 a) (s.proj2 b)
  finishIfFits s d (Poly.deg l) l

end Sys2Proof.Machine
end

