-- ==== Sys2Proof/Machine/PolyGf2m.lean ====
section
/-! DEFINITION. Polynomial algebra over GF(2^m) (42_poly_gf2m.md R160–R166). Every command needs FV. -/

namespace Sys2Proof.Machine

/-- PADDM (42_poly_gf2m.md R161). -/
def execPaddm (d a b : PReg) (s : State) : Result :=
  needField s fun _ => finish (s.writeP d (Poly.add (s.projm a) (s.projm b)))

/-- PMULM (42_poly_gf2m.md R162). -/
def execPmulm (d a b : PReg) (s : State) : Result :=
  needField s fun _ =>
    if s.projm a = [] ∨ s.projm b = [] then finish (s.writeP d [])
    else finishIfFits s d (Poly.deg (s.projm a) + Poly.deg (s.projm b))
      (Poly.mul s.field.arith (s.projm a) (s.projm b))

/-- PDIVM: quotient to D, remainder to C (42_poly_gf2m.md R163). -/
def execPdivm (d c a b : PReg) (s : State) : Result :=
  needDistinct d c s fun _ => needField s fun _ =>
    if s.projm b = [] then raise .divisionByZeroPolynomial s
    else
      let qr := Poly.divMod s.field.arith (s.projm a) (s.projm b)
      finish ((s.writeP d qr.1).writeP c qr.2)

/-- PEVALM: Horner at `fe(e[B])` (42_poly_gf2m.md R164). -/
def execPevalm (d : EReg) (a : PReg) (b : EReg) (s : State) : Result :=
  needField s fun _ => finish (s.writeE d (Poly.eval s.field.arith (s.projm a) (s.feReg b)))

/-- PGCDM: the monic gcd (42_poly_gf2m.md R165). -/
def execPgcdm (d a b : PReg) (s : State) : Result :=
  needField s fun _ =>
    finish (s.writeP d (Poly.gcd s.field.arith (s.projm a) (s.projm b)))

/-- PLCMM: the monic lcm; only the degree of the result is checked (42_poly_gf2m.md R166). -/
def execPlcmm (d a b : PReg) (s : State) : Result :=
  needField s fun _ =>
    let l := Poly.lcm s.field.arith (s.projm a) (s.projm b)
    finishIfFits s d (Poly.deg l) l

end Sys2Proof.Machine
end

