-- ==== Sys2Proof/Machine/Transfer.lean ====
section
/-! DEFINITION. The data transfer and register commands (45_transfer.md R239–R256). They need neither FV
nor CV and move raw register bits. -/

namespace Sys2Proof.Machine

/-- NOP (45_transfer.md R240). -/
def execNop (s : State) : Result := finish s

/-- LDE: `e[D] <- DIN[M_MAX−1:0]` (45_transfer.md R241). -/
def execLde (d : EReg) (s : State) : Result := finish (s.writeE d (elemOfWord s.din))

/-- STE: `DOUT <- zext_32(e[A])` (45_transfer.md R242). -/
def execSte (a : EReg) (s : State) : Result := finish (s.writeDout (wordOfElem (s.readE a)))

/-- LDR: `r[D] <- DIN` (45_transfer.md R243). -/
def execLdr (d : RReg) (s : State) : Result := finish (s.writeR d s.din)

/-- STR: `DOUT <- r[A]` (45_transfer.md R244). -/
def execStr (a : RReg) (s : State) : Result := finish (s.writeDout (s.readR a))

/-- LI: `r[D] <- sext_32(IMM)` (45_transfer.md R245). -/
def execLi (d : RReg) (imm : BitVec 10) (s : State) : Result := finish (s.writeR d (immOperand imm))

/-- EMOV: `e[D] <- e[A]`, all M_MAX bits (45_transfer.md R250). -/
def execEmov (d a : EReg) (s : State) : Result := finish (s.writeE d (s.readE a))

/-- RMOV: `r[D] <- r[A]` (45_transfer.md R251). -/
def execRmov (d a : RReg) (s : State) : Result := finish (s.writeR d (s.readR a))

/-- PMOV: every coefficient of p[A], all M_MAX bits (45_transfer.md R252). -/
def execPmov (d a : PReg) (s : State) : Result := finish (s.writeP d (s.readP a))

/-- PCLR: every coefficient 0 (45_transfer.md R253). -/
def execPclr (d : PReg) (s : State) : Result := finish (s.writeP d [])

/-- LDPC: `p[D][r[A]] <- DIN[M_MAX−1:0]` (45_transfer.md R246). -/
def execLdpc (d : PReg) (a : RReg) (s : State) : Result :=
  needIndex (s.coefIndexOk (s.natReg a)) s fun _ =>
    finish (s.writeP d (setCoef (s.readP d) (s.natReg a) (elemOfWord s.din)))

/-- STPC: `DOUT <- zext_32(p[A][r[B]])` (45_transfer.md R247). -/
def execStpc (a : PReg) (b : RReg) (s : State) : Result :=
  needIndex (s.coefIndexOk (s.natReg b)) s fun _ =>
    finish (s.writeDout (wordOfElem (Poly.coef (s.readP a) (s.natReg b))))

/-- LDPB: 32 bit positions from DIN (45_transfer.md R248). -/
def execLdpb (d : PReg) (a : RReg) (s : State) : Result :=
  needIndex (s.wordIndexOk (s.natReg a)) s fun _ =>
    finish (s.writeP d (setBits (s.readP d) (s.natReg a) s.din))

/-- STPB: 32 bit positions to DOUT (45_transfer.md R249). -/
def execStpb (a : PReg) (b : RReg) (s : State) : Result :=
  needIndex (s.wordIndexOk (s.natReg b)) s fun _ =>
    finish (s.writeDout (getBits (s.readP a) (s.natReg b)))

/-- PGET: `e[D] <- p[A][r[B]]`, all M_MAX bits (45_transfer.md R254). -/
def execPget (d : EReg) (a : PReg) (b : RReg) (s : State) : Result :=
  needIndex (s.coefIndexOk (s.natReg b)) s fun _ =>
    finish (s.writeE d (Poly.coef (s.readP a) (s.natReg b)))

/-- PSET: `p[D][r[B]] <- e[A]`, all M_MAX bits (45_transfer.md R255). -/
def execPset (d : PReg) (a : EReg) (b : RReg) (s : State) : Result :=
  needIndex (s.coefIndexOk (s.natReg b)) s fun _ =>
    finish (s.writeP d (setCoef (s.readP d) (s.natReg b) (s.readE a)))

/-- PDEG: the degree of the raw register (45_transfer.md R256). -/
def execPdeg (d : RReg) (a : PReg) (s : State) : Result :=
  finish (s.writeR d (degWord (Poly.deg (s.readP a))))

end Sys2Proof.Machine
end

