-- ==== Sys2Proof/Machine/Dispatch.lean ====
section
/-! DEFINITION. One arm for each command: the meaning it calls. -/

namespace Sys2Proof.Machine

/-- What a command does at its execution and commit. -/
def exec (i : Instr) (s : State) : Host.Outcome State Fault Refusal :=
  match i with
  | .nop => Sys2Proof.Machine.execNop s
  | .lde d => Sys2Proof.Machine.execLde d s
  | .ste a => Sys2Proof.Machine.execSte a s
  | .ldr d => Sys2Proof.Machine.execLdr d s
  | .str a => Sys2Proof.Machine.execStr a s
  | .li d imm => Sys2Proof.Machine.execLi d imm s
  | .emov d a => Sys2Proof.Machine.execEmov d a s
  | .rmov d a => Sys2Proof.Machine.execRmov d a s
  | .pmov d a => Sys2Proof.Machine.execPmov d a s
  | .pclr d => Sys2Proof.Machine.execPclr d s
  | .ldpc d a => Sys2Proof.Machine.execLdpc d a s
  | .stpc a b => Sys2Proof.Machine.execStpc a b s
  | .ldpb d a => Sys2Proof.Machine.execLdpb d a s
  | .stpb a b => Sys2Proof.Machine.execStpb a b s
  | .pget d a b => Sys2Proof.Machine.execPget d a b s
  | .pset d a b => Sys2Proof.Machine.execPset d a b s
  | .pdeg d a => Sys2Proof.Machine.execPdeg d a s
  | .buildf a b => Sys2Proof.Machine.execBuildf a b s
  | .fadd d a b => Sys2Proof.Machine.execFadd d a b s
  | .fmul d a b => Sys2Proof.Machine.execFmul d a b s
  | .finv d a => Sys2Proof.Machine.execFinv d a s
  | .fpow d a b => Sys2Proof.Machine.execFpow d a b s
  | .padd2 d a b => Sys2Proof.Machine.execPadd2 d a b s
  | .pmul2 d a b => Sys2Proof.Machine.execPmul2 d a b s
  | .pdiv2 d c a b => Sys2Proof.Machine.execPdiv2 d c a b s
  | .peval2 d a b => Sys2Proof.Machine.execPeval2 d a b s
  | .pgcd2 d a b => Sys2Proof.Machine.execPgcd2 d a b s
  | .plcm2 d a b => Sys2Proof.Machine.execPlcm2 d a b s
  | .paddm d a b => Sys2Proof.Machine.execPaddm d a b s
  | .pmulm d a b => Sys2Proof.Machine.execPmulm d a b s
  | .pdivm d c a b => Sys2Proof.Machine.execPdivm d c a b s
  | .pevalm d a b => Sys2Proof.Machine.execPevalm d a b s
  | .pgcdm d a b => Sys2Proof.Machine.execPgcdm d a b s
  | .plcmm d a b => Sys2Proof.Machine.execPlcmm d a b s
  | .minpoly d a => Sys2Proof.Machine.execMinpoly d a s
  | .genb d a => Sys2Proof.Machine.execGenb d a s
  | .buildc a b c nonsys => Sys2Proof.Machine.execBuildc a b c nonsys s
  | .genrd d => Sys2Proof.Machine.execGenrd d s
  | .enc d a b => Sys2Proof.Machine.execEnc d a b s
  | .syn d a b => Sys2Proof.Machine.execSyn d a b s
  | .pgz d c a => Sys2Proof.Machine.execPgz d c a s
  | .chien d c a => Sys2Proof.Machine.execChien d c a s
  | .corr d c a b => Sys2Proof.Machine.execCorr d c a b s
  | .dec d c a b => Sys2Proof.Machine.execDec d c a b s

end Sys2Proof.Machine
end

