-- ==== Sys2Proof/Machine/Window.lean ====
section
/-! DEFINITION. The host's register window: the address map, reads, and the writes that act
(20_memory.md R60–R70, 10_state.md R33–R43). -/

namespace Sys2Proof.Machine

/-- The registers of the window (20_memory.md R70). -/
inductive WindowReg where
  | id | rev | params | ctrl | status | cmd | din | dout | errcmd
  | fieldM | fieldPoly | codeN | codeK | codeT | codeCfg | genDeg
  | reserved
  deriving DecidableEq, Repr

/-- The address map (20_memory.md R70); every other aligned offset of the window is reserved. -/
def WindowReg.ofOffset (off : Nat) : WindowReg :=
  match off with
  | 0x00 => .id
  | 0x04 => .rev
  | 0x08 => .params
  | 0x0C => .ctrl
  | 0x10 => .status
  | 0x14 => .cmd
  | 0x18 => .din
  | 0x1C => .dout
  | 0x20 => .errcmd
  | 0x24 => .fieldM
  | 0x28 => .fieldPoly
  | 0x2C => .codeN
  | 0x30 => .codeK
  | 0x34 => .codeT
  | 0x38 => .codeCfg
  | 0x3C => .genDeg
  | _    => .reserved

/-- PARAMS: M_MAX in 7:0, T_MAX in 15:8, POLY_LEN/32 in 31:16 (10_state.md R37). -/
def paramsWord (c : Params) : Word :=
  BitVec.ofNat 32 (c.mMax % 2 ^ 8 + c.tMax % 2 ^ 8 * 2 ^ 8 + c.polyLen / 32 % 2 ^ 16 * 2 ^ 16)

/-- A value that reads 0 while its validity bit is 0 (10_state.md R33, R36). -/
def gated (valid : Bool) (v : Word) : Word := if valid then v else 0

/-- What a window register reads as (10_state.md R33, R36–R43, 20_memory.md R69). A command's effects are
in State only after its commit, so a read while BUSY sees the values before it. During the reset clear CTRL
reads as a CTRL write accepted in the clear left it, which is the model's choice (log 23); the other registers
read as 70_reset_and_hazards.md R320 says, STATUS with the OVR that a dropped write sets (R321). -/
def State.readReg (s : State) (x : WindowReg) : Word :=
  match x with
  | .id        => Config.idWord
  | .rev       => Config.revWord
  | .params    => paramsWord s.cfg
  | .ctrl      => s.ctrlWord
  | .status    => s.statusWord
  | .cmd       => 0
  | .din       => s.din
  | .dout      => s.dout
  | .errcmd    => gated s.err s.errcmd
  | .fieldM    => gated s.field.fv s.field.m
  | .fieldPoly => gated s.field.fv s.field.poly
  | .codeN     => gated s.code.cv s.code.n
  | .codeK     => gated s.code.cv s.code.k
  | .codeT     => gated s.code.cv s.code.t
  | .codeCfg   => gated s.code.cv (bitAt 0 s.code.nonsys)
  | .genDeg    => gated s.code.cv s.code.genDeg
  | .reserved  => 0

/-- The word at a window offset. -/
def State.windowRead (s : State) (off : Nat) : Word := s.readReg (WindowReg.ofOffset off)

/-- The byte lane at a window offset, little-endian (20_memory.md R62). -/
def State.windowByte (s : State) (off : Nat) : BitVec 8 :=
  (s.windowRead (off / 4 * 4)).extractLsb' (off % 4 * 8) 8

/-- An address of the window (20_memory.md R60). -/
def inWindow (c : Params) (addr : Nat) : Bool :=
  decide (c.engineBase ≤ addr ∧ addr < c.engineBase + Config.windowBytes)

/-- "admitted only if it is 32 bits wide and its offset is a multiple of 4" (20_memory.md R64). -/
def admitted (off bytes : Nat) : Bool := bytes == 4 && off % 4 == 0

/-- A CMD write: acceptance, or dropped (20_memory.md R66, R68, 60_exceptions.md R286). -/
def State.writeCmd (s : State) (w : Word) : State :=
  if s.phase = .idle ∧ s.err = false then s.accept w else s.drop

/-- A DIN write: dropped while the engine is not IDLE (10_state.md R41, 20_memory.md R68). -/
def State.writeDin (s : State) (v : Word) : State :=
  if s.phase = .idle then { s with din := v } else s.drop

/-- A CTRL write: SRST acts alone, else CLRERR acts and DONEIE and ERRIE take the written bits
(10_state.md R38, 60_exceptions.md R290, 70_reset_and_hazards.md R321). -/
def State.writeCtrl (s : State) (v : Word) : State :=
  if v.getLsbD 0 then s.resetEngine
  else
    let t := if v.getLsbD 1 then s.clearError else s
    { t with doneie := v.getLsbD 2, errie := v.getLsbD 3 }

/-- A STATUS write: write-1-to-clear of DONE and OVR (10_state.md R39). -/
def State.writeStatus (s : State) (v : Word) : State :=
  { s with done := s.done && !v.getLsbD 1, ovr := s.ovr && !v.getLsbD 3 }

/-- A write to a window register; the read-only and reserved ones ignore it (20_memory.md R65). -/
def State.writeReg (s : State) (x : WindowReg) (v : Word) : State :=
  match x with
  | .ctrl   => s.writeCtrl v
  | .status => s.writeStatus v
  | .cmd    => s.writeCmd v
  | .din    => s.writeDin v
  | .id | .rev | .params | .dout | .errcmd | .fieldM | .fieldPoly
  | .codeN | .codeK | .codeT | .codeCfg | .genDeg | .reserved => s

/-- A host write of `v` at a bus address. One that is not admitted has no effect on any state
(20_memory.md R64, log 7). -/
def hostWrite (addr bytes : Nat) (v : Word) (s : State) : Result :=
  if inWindow s.cfg addr then
    if admitted (addr - s.cfg.engineBase) bytes then
      .next (s.writeReg (WindowReg.ofOffset (addr - s.cfg.engineBase)) v)
    else .next s
  else .fault (.addressOutsideWindow addr)

/-- A host read at a bus address: no engine state changes, and the host gets the register's value, or 0
where the access is not admitted (20_memory.md R64, R65, log 4, log 7). -/
def hostRead (addr bytes : Nat) (s : State) : Result :=
  if inWindow s.cfg addr then
    .next { s with
      rdata := if admitted (addr - s.cfg.engineBase) bytes
               then s.windowRead (addr - s.cfg.engineBase) else 0 }
  else .fault (.addressOutsideWindow addr)

end Sys2Proof.Machine
end

