-- ==== Sys2Proof/Machine/Engine.lean ====
section
/-! DEFINITION. The engine's turn: the end of the reset clear, or decoding, executing and committing the
latched command (10_state.md R20, R44, 20_memory.md R67). -/

namespace Sys2Proof.Machine

/-- Run the latched word: a command, or an illegal word, which completes with IllegalInstruction
(30_encoding.md R100). -/
def runLatched (s : State) : Result :=
  match decode s.latch with
  | .ok i => exec i s
  | .error _ => raise .illegalInstruction s

/-- The engine's turn. In IDLE nothing changes (60_exceptions.md R301); a completion is enabled in the
other two phases and is taken (20_memory.md R67, 70_reset_and_hazards.md R320). -/
def engineTurn (s : State) : Result :=
  match s.phase with
  | .idle => .next s
  | .resetClear => .next s.endClear
  | .executing => runLatched s

/-- One event of the agenda (20_memory.md R61, 70_reset_and_hazards.md R320). -/
def busEvent (ev : BusEvent) (s : State) : Result :=
  match ev with
  | .read addr bytes => hostRead addr bytes s
  | .write addr bytes v => hostWrite addr bytes v s
  | .reset => .next s.resetEngine
  | .engine => engineTurn s

end Sys2Proof.Machine
end

