-- ==== Sys2Proof/Machine/Step.lean ====
section
/-! DEFINITION. One step of the machine, and how the host puts a command where the next step runs it. -/

namespace Sys2Proof.Machine

/-- One step: the first event of the agenda; with no event left, the engine's turn, so that a completion
that stays enabled is taken (60_exceptions.md R288, 70_reset_and_hazards.md R334, log 1, log 20). -/
def step (s : State) : Host.Outcome State Fault Refusal :=
  match s.agenda with
  | [] => engineTurn s
  | ev :: rest => busEvent ev { s with agenda := rest }

/-- `s` just after the command word `w` (its low `nbits` bits) was accepted (20_memory.md R66), with the
engine's turn next: the very next step runs that command (log 3). -/
def State.withFetchWord (s : State) (nbits w : Nat) : State :=
  { s.accept (BitVec.ofNat 32 (w % 2 ^ nbits)) with agenda := .engine :: s.agenda }

end Sys2Proof.Machine
end

