-- ==== Sys2Proof/Machine/Assembly.lean ====
section
/-! DEFINITION. Assembly lines as tokens with the pseudo-instructions, and the host-side notation of the
spec's programs as bus events (30_encoding.md R102, R103, log 21). -/

namespace Sys2Proof.Machine

/-- An operand of an assembly line (30_encoding.md R102). -/
inductive AsmOperand where
  | e (i : EReg)
  | r (i : RReg)
  | p (i : PReg)
  | imm (v : Int)
  | sys
  | nonsys
  deriving DecidableEq, Repr

/-- The first word of an assembly line: a command, or a pseudo-instruction (30_encoding.md R103). -/
inductive AsmName where
  | op (o : Op)
  | clr
  | movi
  | eclr
  deriving DecidableEq, Repr

/-- One line: name, then operands, destinations first (30_encoding.md R102). -/
structure AsmLine where
  name : AsmName
  operands : List AsmOperand
  deriving DecidableEq, Repr

/-- The line a command is written as (30_encoding.md R102). -/
def asmOf : Instr → AsmLine
  | .nop => ⟨.op .nop, []⟩
  | .lde d => ⟨.op .lde, [.e d]⟩
  | .ste a => ⟨.op .ste, [.e a]⟩
  | .ldr d => ⟨.op .ldr, [.r d]⟩
  | .str a => ⟨.op .str, [.r a]⟩
  | .li d imm => ⟨.op .li, [.r d, .imm imm.toInt]⟩
  | .emov d a => ⟨.op .emov, [.e d, .e a]⟩
  | .rmov d a => ⟨.op .rmov, [.r d, .r a]⟩
  | .pmov d a => ⟨.op .pmov, [.p d, .p a]⟩
  | .pclr d => ⟨.op .pclr, [.p d]⟩
  | .ldpc d a => ⟨.op .ldpc, [.p d, .r a]⟩
  | .stpc a b => ⟨.op .stpc, [.p a, .r b]⟩
  | .ldpb d a => ⟨.op .ldpb, [.p d, .r a]⟩
  | .stpb a b => ⟨.op .stpb, [.p a, .r b]⟩
  | .pget d a b => ⟨.op .pget, [.e d, .p a, .r b]⟩
  | .pset d a b => ⟨.op .pset, [.p d, .e a, .r b]⟩
  | .pdeg d a => ⟨.op .pdeg, [.r d, .p a]⟩
  | .buildf a b => ⟨.op .buildf, [.r a, .r b]⟩
  | .fadd d a b => ⟨.op .fadd, [.e d, .e a, .e b]⟩
  | .fmul d a b => ⟨.op .fmul, [.e d, .e a, .e b]⟩
  | .finv d a => ⟨.op .finv, [.e d, .e a]⟩
  | .fpow d a b => ⟨.op .fpow, [.e d, .e a, .r b]⟩
  | .padd2 d a b => ⟨.op .padd2, [.p d, .p a, .p b]⟩
  | .pmul2 d a b => ⟨.op .pmul2, [.p d, .p a, .p b]⟩
  | .pdiv2 d c a b => ⟨.op .pdiv2, [.p d, .p c, .p a, .p b]⟩
  | .peval2 d a b => ⟨.op .peval2, [.e d, .p a, .e b]⟩
  | .pgcd2 d a b => ⟨.op .pgcd2, [.p d, .p a, .p b]⟩
  | .plcm2 d a b => ⟨.op .plcm2, [.p d, .p a, .p b]⟩
  | .paddm d a b => ⟨.op .paddm, [.p d, .p a, .p b]⟩
  | .pmulm d a b => ⟨.op .pmulm, [.p d, .p a, .p b]⟩
  | .pdivm d c a b => ⟨.op .pdivm, [.p d, .p c, .p a, .p b]⟩
  | .pevalm d a b => ⟨.op .pevalm, [.e d, .p a, .e b]⟩
  | .pgcdm d a b => ⟨.op .pgcdm, [.p d, .p a, .p b]⟩
  | .plcmm d a b => ⟨.op .plcmm, [.p d, .p a, .p b]⟩
  | .minpoly d a => ⟨.op .minpoly, [.p d, .e a]⟩
  | .genb d a => ⟨.op .genb, [.p d, .r a]⟩
  | .buildc a b c ns => ⟨.op .buildc, [.r a, .r b, .r c, if ns then .nonsys else .sys]⟩
  | .genrd d => ⟨.op .genrd, [.p d]⟩
  | .enc d a b => ⟨.op .enc, [.p d, .p a, .r b]⟩
  | .syn d a b => ⟨.op .syn, [.p d, .p a, .r b]⟩
  | .pgz d c a => ⟨.op .pgz, [.p d, .r c, .p a]⟩
  | .chien d c a => ⟨.op .chien, [.p d, .r c, .p a]⟩
  | .corr d c a b => ⟨.op .corr, [.p d, .p c, .p a, .p b]⟩
  | .dec d c a b => ⟨.op .dec, [.p d, .p c, .p a, .r b]⟩

/-- LI's immediate from a written number, −512 ≤ imm ≤ 511 (30_encoding.md R93, R103). -/
def asmLi (d : RReg) (v : Int) : Option Instr :=
  if -512 ≤ v ∧ v ≤ 511 then some (.li d (BitVec.ofInt 10 v)) else none

/-- The command a command line stands for, by its operands (30_encoding.md R102). BUILDC's form may be
left out: "omitted = SYS". -/
def asmCommand (o : Op) (xs : List AsmOperand) : Option Instr :=
  match o, xs with
  | .nop, [] => some .nop
  | .lde, [.e d] => some (.lde d)
  | .ste, [.e a] => some (.ste a)
  | .ldr, [.r d] => some (.ldr d)
  | .str, [.r a] => some (.str a)
  | .li, [.r d, .imm v] => asmLi d v
  | .emov, [.e d, .e a] => some (.emov d a)
  | .rmov, [.r d, .r a] => some (.rmov d a)
  | .pmov, [.p d, .p a] => some (.pmov d a)
  | .pclr, [.p d] => some (.pclr d)
  | .ldpc, [.p d, .r a] => some (.ldpc d a)
  | .stpc, [.p a, .r b] => some (.stpc a b)
  | .ldpb, [.p d, .r a] => some (.ldpb d a)
  | .stpb, [.p a, .r b] => some (.stpb a b)
  | .pget, [.e d, .p a, .r b] => some (.pget d a b)
  | .pset, [.p d, .e a, .r b] => some (.pset d a b)
  | .pdeg, [.r d, .p a] => some (.pdeg d a)
  | .buildf, [.r a, .r b] => some (.buildf a b)
  | .fadd, [.e d, .e a, .e b] => some (.fadd d a b)
  | .fmul, [.e d, .e a, .e b] => some (.fmul d a b)
  | .finv, [.e d, .e a] => some (.finv d a)
  | .fpow, [.e d, .e a, .r b] => some (.fpow d a b)
  | .padd2, [.p d, .p a, .p b] => some (.padd2 d a b)
  | .pmul2, [.p d, .p a, .p b] => some (.pmul2 d a b)
  | .pdiv2, [.p d, .p c, .p a, .p b] => some (.pdiv2 d c a b)
  | .peval2, [.e d, .p a, .e b] => some (.peval2 d a b)
  | .pgcd2, [.p d, .p a, .p b] => some (.pgcd2 d a b)
  | .plcm2, [.p d, .p a, .p b] => some (.plcm2 d a b)
  | .paddm, [.p d, .p a, .p b] => some (.paddm d a b)
  | .pmulm, [.p d, .p a, .p b] => some (.pmulm d a b)
  | .pdivm, [.p d, .p c, .p a, .p b] => some (.pdivm d c a b)
  | .pevalm, [.e d, .p a, .e b] => some (.pevalm d a b)
  | .pgcdm, [.p d, .p a, .p b] => some (.pgcdm d a b)
  | .plcmm, [.p d, .p a, .p b] => some (.plcmm d a b)
  | .minpoly, [.p d, .e a] => some (.minpoly d a)
  | .genb, [.p d, .r a] => some (.genb d a)
  | .buildc, [.r a, .r b, .r c] => some (.buildc a b c false)
  | .buildc, [.r a, .r b, .r c, .sys] => some (.buildc a b c false)
  | .buildc, [.r a, .r b, .r c, .nonsys] => some (.buildc a b c true)
  | .genrd, [.p d] => some (.genrd d)
  | .enc, [.p d, .p a, .r b] => some (.enc d a b)
  | .syn, [.p d, .p a, .r b] => some (.syn d a b)
  | .pgz, [.p d, .r c, .p a] => some (.pgz d c a)
  | .chien, [.p d, .r c, .p a] => some (.chien d c a)
  | .corr, [.p d, .p c, .p a, .p b] => some (.corr d c a b)
  | .dec, [.p d, .p c, .p a, .r b] => some (.dec d c a b)
  | _, _ => none

/-- The command a line stands for, pseudo-instructions expanded: CLR is LI with 0, MOVI is LI, ECLR is
FADD of the register with itself (30_encoding.md R103). -/
def assembleLine (l : AsmLine) : Option Instr :=
  match l.name, l.operands with
  | .op o, xs => asmCommand o xs
  | .clr, [.r d] => some (.li d 0)
  | .movi, [.r d, .imm v] => asmLi d v
  | .eclr, [.e d] => some (.fadd d d d)
  | .clr, _ => none
  | .movi, _ => none
  | .eclr, _ => none

/-- `W off, v` (30_encoding.md R103). -/
def hostW (c : Params) (off : Nat) (v : Word) : BusEvent := .write (c.engineBase + off) 4 v

/-- `R off -> x` (30_encoding.md R103). -/
def hostR (c : Params) (off : Nat) : BusEvent := .read (c.engineBase + off) 4

/-- `ISSUE cmd`: write CMD, the engine completes, and the host's poll of STATUS sees BUSY = 0
(30_encoding.md R103). -/
def hostIssue (c : Params) (w : Word) : List BusEvent :=
  [hostW c 0x14 w, .engine, hostR c 0x10]

end Sys2Proof.Machine
end

