-- ==== Sys2Proof/Safety.lean ====
section
/-! DEFINITION. What counts as a safe run, and the invariant of every state a run can reach. -/

namespace Sys2Proof.Machine

/-- Coefficients of a register are stored as `storePoly` leaves them: canonical, at most POLY_LEN, each of
M_MAX bits (10_state.md R24, log 12). -/
abbrev polyFits (c : Params) (P : Poly) : Prop :=
  Poly.trim P = P ∧ P.length ≤ c.polyLen ∧ ∀ x ∈ P, x.toNat < 2 ^ c.mMax

/-- The tables and the pair (m, p) of a built field belong together (10_state.md R30, R31). -/
abbrev fieldBuilt (c : Params) (F : FieldState) : Prop :=
  1 ≤ F.deg ∧ F.deg ≤ c.mMax ∧ hasDegree F.deg F.poly = true ∧
  fieldTables F.deg F.poly = some (F.alog, F.log)

/-- What BUILDC checked of a built code, and that GEN is its generator (43_minpoly_generator.md R186,
R187). -/
abbrev codeBuilt (c : Params) (F : FieldState) (C : CodeState) : Prop :=
  1 ≤ C.kNat ∧ C.kNat ≤ C.nNat ∧ C.nNat ≤ F.q1 ∧ C.tNat ≤ c.tMax ∧ 2 * C.tNat + 1 ≤ F.q1 ∧
  Poly.deg (generatorPoly F C.tNat) ≤ ((C.nNat - C.kNat : Nat) : Int) ∧
  C.gen = storePoly c (generatorPoly F C.tNat) ∧
  C.genDeg = degWord (Poly.deg (generatorPoly F C.tNat))

/-- The error codes the engine can latch (60_exceptions.md R281, 93_implementation_defined.md U11). -/
def legalCodes : List (BitVec 8) :=
  [0x01, 0x02, 0x03, 0x04, 0x05, 0x06, 0x08, 0x09, 0x0A, 0x0B, 0x0C]

/-- The invariant of the engine: it holds of the reset state and every step keeps it. -/
structure State.Inv (s : State) : Prop where
  /-- the parameters obey 00_scope.md R7 -/
  cfgValid : s.cfg.Valid
  /-- element registers are M_MAX bits wide (10_state.md R21) -/
  elemsFit : ∀ i : EReg, (s.readE i).toNat < 2 ^ s.cfg.mMax
  /-- polynomial registers hold POLY_LEN coefficients of M_MAX bits (10_state.md R24) -/
  polysFit : ∀ i : PReg, polyFits s.cfg (s.readP i)
  /-- so does GEN (10_state.md R35) -/
  genFits : polyFits s.cfg s.code.gen
  /-- FV = 1: the tables are those of (m, p) (10_state.md R31) -/
  fieldOn : s.field.fv = true → fieldBuilt s.cfg s.field
  /-- FV = 0: FIELD_M and FIELD_POLY hold their reset value (10_state.md R45) -/
  fieldOff : s.field.fv = false → s.field.m = 0 ∧ s.field.poly = 0
  /-- "CV = 1 implies FV = 1 at all times" (10_state.md R28), and the code passed BUILDC's checks -/
  codeOn : s.code.cv = true → s.field.fv = true ∧ codeBuilt s.cfg s.field s.code
  /-- CV = 0: the code registers hold their reset value (10_state.md R45) -/
  codeOff : s.code.cv = false → s.code = CodeState.reset
  /-- "DST value 3 … Never written" (93_implementation_defined.md U12) -/
  dstLegal : s.dst ≠ 3
  /-- ECODE and ERRCMD are 0 when ERR = 0 (10_state.md R39, R40) -/
  errOff : s.err = false → s.ecode = 0 ∧ s.errcmd = 0
  /-- "ERR = 1 implies phase = IDLE" (60_exceptions.md R290), with a code of R281 -/
  errOn : s.err = true → s.phase = .idle ∧ s.ecode ∈ legalCodes
  /-- DONE reads 0 while BUSY = 1 (20_memory.md R69) -/
  busyNotDone : s.phase ≠ .idle → s.done = false
  /-- during the reset clear no field and no code is built (10_state.md R45) -/
  clearing : s.phase = .resetClear → s.field = FieldState.reset ∧ s.code = CodeState.reset

/-- A claim's premise "no error latched" (60_exceptions.md R302). -/
abbrev State.NoError (s : State) : Prop := s.err = false

/-- A claim's premise "OVR = 0": the host obeyed the protocol (60_exceptions.md R302). -/
abbrev State.NoDrop (s : State) : Prop := s.ovr = false

/-- "The run ends when the host has performed its last access and phase = IDLE"
(70_reset_and_hazards.md R336). -/
abbrev State.RunEnded (s : State) : Prop := s.agenda = [] ∧ s.phase = .idle

/-- The host may issue its next command (20_memory.md R74, 70_reset_and_hazards.md R330). -/
abbrev State.Ready (s : State) : Prop := s.phase = .idle ∧ s.err = false

end Sys2Proof.Machine
end

