-- ==== Sys2Proof/Certificates/Slice0/Obligations.lean ====
section
/-! DEFINITION. The statements for the provers, and the few notions they are said in. -/

namespace Sys2Proof.Spec

open Sys2Proof.Machine

/-! ### What a command leaves unchanged -/

/-- The error commit: exactly the writes of 60_exceptions.md R284. -/
def erroring (s : State) (code : BitVec 8) : State :=
  { s with err := true, ecode := code, errcmd := s.latch, done := true, phase := .idle }

/-- A success commit that wrote nothing (20_memory.md R67). -/
def completed (s : State) : State := { s with done := true, phase := .idle }

/-- `t` is `s` after a success commit that wrote at most e[d]. -/
def WroteE (s t : State) (d : EReg) : Prop :=
  t = { s with e := t.e, done := true, phase := .idle } ∧ ∀ i, i ≠ d → t.readE i = s.readE i

/-- `t` is `s` after a success commit that wrote at most r[d]. -/
def WroteR (s t : State) (d : RReg) : Prop :=
  t = { s with r := t.r, done := true, phase := .idle } ∧ ∀ i, i ≠ d → t.readR i = s.readR i

/-- `t` is `s` after a success commit that wrote at most p[d]. -/
def WroteP (s t : State) (d : PReg) : Prop :=
  t = { s with p := t.p, done := true, phase := .idle } ∧ ∀ i, i ≠ d → t.readP i = s.readP i

/-- `t` is `s` after a success commit that wrote at most p[d] and p[c]. -/
def WrotePP (s t : State) (d c : PReg) : Prop :=
  t = { s with p := t.p, done := true, phase := .idle } ∧
  ∀ i, i ≠ d → i ≠ c → t.readP i = s.readP i

/-- `t` is `s` after a success commit that wrote at most DOUT. -/
def WroteDout (s t : State) : Prop := t = { s with dout := t.dout, done := true, phase := .idle }

/-- `t` is `s` after a success commit that wrote at most p[d], r[c] and F. -/
def WrotePRF (s t : State) (d : PReg) (c : RReg) : Prop :=
  t = { s with p := t.p, r := t.r, f := t.f, done := true, phase := .idle } ∧
  (∀ i, i ≠ d → t.readP i = s.readP i) ∧ ∀ i, i ≠ c → t.readR i = s.readR i

/-- `t` is `s` after a success commit that wrote at most p[d], p[c] and F. -/
def WrotePPF (s t : State) (d c : PReg) : Prop :=
  t = { s with p := t.p, f := t.f, done := true, phase := .idle } ∧
  ∀ i, i ≠ d → i ≠ c → t.readP i = s.readP i

/-- `t` is `s` after a success commit that wrote at most p[d], p[c], F and DST. -/
def WrotePPFDst (s t : State) (d c : PReg) : Prop :=
  t = { s with p := t.p, f := t.f, dst := t.dst, done := true, phase := .idle } ∧
  ∀ i, i ≠ d → i ≠ c → t.readP i = s.readP i

/-! ### Which registers and errors belong to a command -/

/-- The element register a command may write (10_state.md R25). -/
def eDest : Instr → Option EReg
  | .lde d | .emov d _ | .pget d _ _ | .fadd d _ _ | .fmul d _ _ | .finv d _ | .fpow d _ _
  | .peval2 d _ _ | .pevalm d _ _ => some d
  | _ => none

/-- The integer register a command may write (10_state.md R25). -/
def rDest : Instr → Option RReg
  | .ldr d | .li d _ | .rmov d _ | .pdeg d _ => some d
  | .pgz _ c _ | .chien _ c _ => some c
  | _ => none

/-- The polynomial registers a command may write (10_state.md R25). -/
def pDests : Instr → List PReg
  | .pmov d _ | .pclr d | .ldpc d _ | .ldpb d _ | .pset d _ _ | .padd2 d _ _ | .pmul2 d _ _
  | .pgcd2 d _ _ | .plcm2 d _ _ | .paddm d _ _ | .pmulm d _ _ | .pgcdm d _ _ | .plcmm d _ _
  | .minpoly d _ | .genb d _ | .genrd d | .enc d _ _ | .syn d _ _ | .pgz d _ _ | .chien d _ _ => [d]
  | .pdiv2 d c _ _ | .pdivm d c _ _ | .corr d c _ _ | .dec d c _ _ => [d, c]
  | _ => []

/-- The commands that need FV = 1 (60_exceptions.md R281, row 0x09). -/
def needsFieldBuilt : Instr → Bool
  | .fadd .. | .fmul .. | .finv .. | .fpow .. | .paddm .. | .pmulm .. | .pdivm .. | .pevalm ..
  | .pgcdm .. | .plcmm .. | .minpoly .. | .genb .. | .buildc .. => true
  | _ => false

/-- The commands that need CV = 1 (60_exceptions.md R281, row 0x0A). -/
def needsCodeBuilt : Instr → Bool
  | .genrd .. | .enc .. | .syn .. | .pgz .. | .chien .. | .corr .. | .dec .. => true
  | _ => false

/-- The error codes a legal command can raise (60_exceptions.md R281). -/
def raisable : Instr → List (BitVec 8)
  | .buildf .. => [0x01]
  | .buildc .. | .genb .. => [0x09, 0x02]
  | .finv .. | .fpow .. => [0x09, 0x03]
  | .pdiv2 .. => [0x04]
  | .pdivm .. => [0x09, 0x04]
  | .enc .. => [0x0A, 0x05]
  | .syn .. | .dec .. => [0x0A, 0x06]
  | .pmul2 .. | .plcm2 .. => [0x0B]
  | .pmulm .. | .plcmm .. => [0x09, 0x0B]
  | .fadd .. | .fmul .. | .paddm .. | .pevalm .. | .pgcdm .. | .minpoly .. => [0x09]
  | .genrd .. | .pgz .. | .chien .. | .corr .. => [0x0A]
  | .ldpc .. | .stpc .. | .pget .. | .pset .. | .ldpb .. | .stpb .. => [0x0C]
  | .nop | .lde .. | .ste .. | .ldr .. | .str .. | .li .. | .emov .. | .rmov .. | .pmov ..
  | .pclr .. | .pdeg .. | .padd2 .. | .peval2 .. | .pgcd2 .. => []

/-! ### Arithmetic of the spec, apart from the model's own functions -/

/-- The sum in characteristic 2 of `g 0 … g (n−1)` (00_scope.md R13). -/
def xorSum (n : Nat) (g : Nat → Elem) : Elem := (List.range n).foldl (fun v i => v ^^^ g i) 0

/-- Coefficient j of a product: the sum over i of a_i · b_{j−i} (41_poly_gf2.md R142). -/
def conv (mul : Elem → Elem → Elem) (a b : Poly) (j : Nat) : Elem :=
  xorSum (j + 1) (fun i => mul (Poly.coef a i) (Poly.coef b (j - i)))

/-- Multiplication in GF(2) (40_field.md R127). -/
def and2 (x y : Elem) : Elem := x &&& y

/-- `h` divides `a` over the coefficients of `n` bits that `mul` multiplies. -/
def Divides (mul : Elem → Elem → Elem) (n : Nat) (h a : Poly) : Prop :=
  ∃ q : Poly, (∀ x ∈ q, x.toNat < 2 ^ n) ∧ ∀ j, Poly.coef a j = conv mul q h j

/-- The coefficients of `P` are values of `n` bits (41_poly_gf2.md R140 with n = 1, 42_poly_gf2m.md R160 with
n = m). -/
def Coefs (n : Nat) (P : Poly) : Prop := ∀ x ∈ P, x.toNat < 2 ^ n

/-- M_μ of 44_codec.md R209, entry s_{row+col−1} with rows and columns from 1, is singular: it sends some
nonzero vector of field elements to 0 (rows and columns from 0 here). -/
def Singular (F : FieldState) (S : Nat → Elem) (μ : Nat) : Prop :=
  ∃ x : Nat → Elem, (∃ col, col < μ ∧ x col ≠ 0) ∧ (∀ col, col < μ → (x col).toNat < 2 ^ F.deg) ∧
    ∀ row, row < μ → xorSum μ (fun col => F.mul (S (row + col + 1)) (x col)) = 0

/-- x^n + 1, for n ≥ 1. -/
def xPowPlusOne (n : Nat) : Poly := Poly.tabulate (n + 1) (fun j => if j = 0 ∨ j = n then 1 else 0)

/-- x·v mod P, on numbers (40_field.md R122). -/
def timesX (m P v : Nat) : Nat := if (2 * v).testBit m then (2 * v) ^^^ P else 2 * v

/-- α^j = x^j mod P, on numbers (10_state.md R30). -/
def alphaPower (m P j : Nat) : Nat := (timesX m P)^[j] 1

/-- The multiplicative order of α = x mod P is 2^m − 1 (40_field.md R122). -/
def Primitive (m P : Nat) : Prop :=
  (∀ j, 0 < j → j < 2 ^ m - 1 → alphaPower m P j ≠ 1) ∧ alphaPower m P (2 ^ m - 1) = 1

/-- The product of a(x) and b(x) in GF(2)[x] reduced modulo P(x), on numbers: the sum of x^j·b mod P over
the set bits j of a (40_field.md R124). -/
def mulMod (m P a b : Nat) : Nat :=
  (List.range m).foldl (fun v j => if a.testBit j then v ^^^ (timesX m P)^[j] b else v) 0

/-- The match and mask of every row of spec/opcode_table.json, in its order. -/
def opcodeRows : List (Word × Word) :=
  [
   (0x00000000, 0xFFFFFFFF), (0x04000000, 0xFC3FFFFF), (0x08000000, 0xFFC3FFFF), (0x0C000000, 0xFC3FFFFF),
   (0x10000000, 0xFFC3FFFF), (0x14000000, 0xFC3FFC00), (0x18000000, 0xFC03FFFF), (0x1C000000, 0xFC03FFFF),
   (0x20000000, 0xFE23FFFF), (0x24000000, 0xFE3FFFFF), (0x28000000, 0xFE03FFFF), (0x2C000000, 0xFFE03FFF),
   (0x30000000, 0xFE03FFFF), (0x34000000, 0xFFE03FFF), (0x38000000, 0xFC203FFF), (0x3C000000, 0xFE003FFF),
   (0x40000000, 0xFC23FFFF), (0x60000000, 0xFFC03FFF), (0x64000000, 0xFC003FFF), (0x68000000, 0xFC003FFF),
   (0x6C000000, 0xFC03FFFF), (0x70000000, 0xFC003FFF), (0x80000000, 0xFE223FFF), (0x84000000, 0xFE223FFF),
   (0x88000000, 0xFE2223FF), (0x8C000000, 0xFC203FFF), (0x90000000, 0xFE223FFF), (0x94000000, 0xFE223FFF),
   (0xA0000000, 0xFE223FFF), (0xA4000000, 0xFE223FFF), (0xA8000000, 0xFE2223FF), (0xAC000000, 0xFC203FFF),
   (0xB0000000, 0xFE223FFF), (0xB4000000, 0xFE223FFF), (0xC0000000, 0xFE03FFFF), (0xC4000000, 0xFE03FFFF),
   (0xC8000000, 0xFFC003FE), (0xCC000000, 0xFE3FFFFF), (0xE0000000, 0xFE203FFF), (0xE4000000, 0xFE203FFF),
   (0xE8000000, 0xFE23C3FF), (0xEC000000, 0xFE23C3FF), (0xF0000000, 0xFE2223FF), (0xF4000000, 0xFE2023FF)]

/-- The rows whose "constraint" is D ≠ C (30_encoding.md R99). -/
def twoDestMatches : List Word := [0x88000000, 0xA8000000, 0xF0000000, 0xF4000000]

/-- Bits `hi` down to `lo` of a word, as a number (00_scope.md R9). -/
def bits (w : Word) (hi lo : Nat) : Nat := w.toNat / 2 ^ lo % 2 ^ (hi + 1 - lo)

end Sys2Proof.Spec

section
open Sys2Proof Sys2Proof.Machine Sys2Proof.Spec

/-! ### Encoding -/

/-- 30_encoding.md R91, R95, R101: no bit of an encoding is dropped. -/
def Obligations.DecodeOfEncodeIsTheCommand : Prop :=
  ∀ i : Instr, i.wellFormed = true → decode (encode i) = .ok i

/-- 30_encoding.md R91–R93, R97–R99: a word has one meaning, and every bit of it is checked. -/
def Obligations.EncodeOfDecodeIsTheWord : Prop :=
  ∀ (w : Word) (i : Instr), decode w = .ok i → i.wellFormed = true ∧ encode i = w

/-- spec/opcode_table.json with 30_encoding.md R99: the decoder accepts a word exactly where one row's mask
and match do, and D ≠ C in the four rows that have that constraint. -/
def Obligations.DecoderAcceptsExactlyTheOpcodeTable : Prop :=
  ∀ w : Word, (∃ i, decode w = .ok i) ↔
    ∃ row ∈ opcodeRows, w &&& row.2 = row.1 ∧
      (row.1 ∈ twoDestMatches → bits w 25 22 ≠ bits w 13 10)

/-- 30_encoding.md R104, both ways. -/
def Obligations.WorkedEncodings : Prop :=
  (decode 0x68C48000 = .ok (.fmul 3 1 2) ∧ encode (.fmul 3 1 2) = 0x68C48000) ∧
  (decode 0x144003FF = .ok (.li 1 (-1)) ∧ encode (.li 1 (-1)) = 0x144003FF) ∧
  (decode 0xC8048C01 = .ok (.buildc 1 2 3 true) ∧ encode (.buildc 1 2 3 true) = 0xC8048C01)

/-- 30_encoding.md R102, R103: every command has an assembly line that gives it back, the three
pseudo-instructions give their expansions, and BUILDC without its last word is SYS. -/
def Obligations.AssemblyLinesGiveTheirCommands : Prop :=
  (∀ i : Instr, assembleLine (asmOf i) = some i) ∧
  (∀ d : RReg, assembleLine ⟨.clr, [.r d]⟩ = some (.li d 0)) ∧
  (∀ (d : RReg) (v : Int), -512 ≤ v → v ≤ 511 →
    ∃ imm, assembleLine ⟨.movi, [.r d, .imm v]⟩ = some (.li d imm) ∧ (immOperand imm).toInt = v) ∧
  (∀ d : EReg, assembleLine ⟨.eclr, [.e d]⟩ = some (.fadd d d d)) ∧
  (∀ a b c : RReg, assembleLine ⟨.op .buildc, [.r a, .r b, .r c]⟩ = some (.buildc a b c false))

/-! ### Steps, the host interface and reset -/

/-- 20_memory.md R66, R67: the engine's turn on an accepted command is the command's meaning. That a step with
an empty agenda is the engine's turn is the model's choice (log 20). -/
def Obligations.StepRunsTheDecodedCommand : Prop :=
  ∀ (s : State) (i : Instr) (rest : List BusEvent),
    s.phase = .executing → decode s.latch = .ok i →
    (s.agenda = [] → step s = exec i s) ∧
    (s.agenda = .engine :: rest → step s = exec i { s with agenda := rest })

/-- 30_encoding.md R100: an illegal word is accepted like any command and completes with the error commit
of IllegalInstruction; 0x0000_0000 is NOP and 0xFFFF_FFFF is illegal. -/
def Obligations.IllegalWordCompletesWithIllegalInstruction : Prop :=
  (∀ (s : State) (w : Word), s.phase = .idle → s.err = false →
    s.agenda = [.write (s.cfg.engineBase + 0x14) 4 w, .engine] → (∀ i, decode w ≠ .ok i) →
    ∃ t, step s = .next t ∧
      t = { s with agenda := [.engine], latch := w, done := false, phase := .executing } ∧
      step t = .next { erroring t 0x08 with agenda := [] }) ∧
  decode 0x00000000 = .ok .nop ∧ ∀ i, decode 0xFFFFFFFF ≠ .ok i

/-- 20_memory.md R66, R68, 10_state.md R41: a CMD write is accepted or dropped, a DIN write replaces DIN
or is dropped. -/
def Obligations.CmdAndDinWritesActOrAreDropped : Prop :=
  (∀ (s : State) (w : Word) (rest : List BusEvent),
    s.agenda = .write (s.cfg.engineBase + 0x14) 4 w :: rest →
    (s.phase = .idle ∧ s.err = false →
      ∃ t, step s = .next t ∧ t.busy = true ∧
        t = { s with agenda := rest, latch := w, done := false, phase := .executing }) ∧
    (¬ (s.phase = .idle ∧ s.err = false) →
      step s = .next { s with agenda := rest, ovr := true })) ∧
  (∀ (s : State) (v : Word) (rest : List BusEvent),
    s.agenda = .write (s.cfg.engineBase + 0x18) 4 v :: rest →
    step s = .next (if s.phase = .idle then { s with agenda := rest, din := v }
                    else { s with agenda := rest, ovr := true }))

/-- 10_state.md R38, 60_exceptions.md R290: a CTRL write without SRST, in every phase. 10_state.md R39: the
STATUS write-1-to-clear bits, and where each field of STATUS and CTRL is read. That CTRL reads back what was
written to it also during the reset clear is the model's choice (log 23). -/
def Obligations.CtrlAndStatusRegisters : Prop :=
  (∀ (s : State) (v : Word) (rest : List BusEvent),
    s.agenda = .write (s.cfg.engineBase + 0x0C) 4 v :: rest → v.getLsbD 0 = false →
    step s = .next (if v.getLsbD 1 = true ∧ s.err = true
      then { s with agenda := rest, doneie := v.getLsbD 2, errie := v.getLsbD 3,
                    err := false, ecode := 0, errcmd := 0 }
      else { s with agenda := rest, doneie := v.getLsbD 2, errie := v.getLsbD 3 })) ∧
  (∀ (s : State) (v : Word) (rest : List BusEvent),
    s.agenda = .write (s.cfg.engineBase + 0x10) 4 v :: rest →
    step s = .next { s with agenda := rest
                            done := if v.getLsbD 1 then false else s.done
                            ovr := if v.getLsbD 3 then false else s.ovr }) ∧
  (∀ s : State,
    let w := s.windowRead 0x10
    (bits w 0 0 = 1 ↔ s.phase ≠ .idle) ∧ (bits w 1 1 = 1 ↔ s.done = true) ∧
    (bits w 2 2 = 1 ↔ s.err = true) ∧ (bits w 3 3 = 1 ↔ s.ovr = true) ∧
    (bits w 4 4 = 1 ↔ s.f = true) ∧ bits w 6 5 = s.dst.toNat ∧
    (bits w 7 7 = 1 ↔ s.field.fv = true) ∧ (bits w 8 8 = 1 ↔ s.code.cv = true) ∧
    bits w 15 9 = 0 ∧ bits w 23 16 = s.ecode.toNat ∧ bits w 31 24 = 0) ∧
  (∀ s : State, let w := s.windowRead 0x0C
    bits w 1 0 = 0 ∧ bits w 31 4 = 0 ∧ (bits w 2 2 = 1 ↔ s.doneie = true) ∧
    (bits w 3 3 = 1 ↔ s.errie = true))

/-- 10_state.md R37 with the widths of 00_scope.md R7: the identification registers read their constants.
10_state.md R33, R36: the FIELD and CODE registers read their values while FV or CV is 1, and 0 otherwise. A
write to any of them changes nothing. -/
def Obligations.IdentificationAndGatedRegisters : Prop :=
  (∀ s : State, s.cfg.Valid →
    s.windowRead 0x00 = 0x4746324D ∧ s.windowRead 0x04 = 1 ∧
    bits (s.windowRead 0x08) 7 0 = s.cfg.mMax ∧ bits (s.windowRead 0x08) 15 8 = s.cfg.tMax ∧
    bits (s.windowRead 0x08) 31 16 = s.cfg.polyLen / 32 ∧
    ∀ off, off % 4 = 0 → off ≤ 0x08 ∨ (0x24 ≤ off ∧ off ≤ 0x3C) → ∀ (v : Word) (rest : List BusEvent),
      s.agenda = .write (s.cfg.engineBase + off) 4 v :: rest →
      step s = .next { s with agenda := rest }) ∧
  (∀ s : State, s.Inv →
    (s.field.fv = true → s.windowRead 0x24 = s.field.m ∧ s.windowRead 0x28 = s.field.poly) ∧
    (s.field.fv = false → s.windowRead 0x24 = 0 ∧ s.windowRead 0x28 = 0) ∧
    (s.code.cv = true → s.windowRead 0x2C = s.code.n ∧ s.windowRead 0x30 = s.code.k ∧
      s.windowRead 0x34 = s.code.t ∧ (s.windowRead 0x38).toNat = s.code.nonsys.toNat ∧
      ((s.windowRead 0x3C).toNat : Int) = Poly.deg s.code.gen) ∧
    (s.code.cv = false → s.windowRead 0x2C = 0 ∧ s.windowRead 0x30 = 0 ∧ s.windowRead 0x34 = 0 ∧
      s.windowRead 0x38 = 0 ∧ s.windowRead 0x3C = 0))

/-- 20_memory.md R65, R70, 10_state.md R40–R43: a read has no side effect on any register (`rdata` is the
model's own record of it, log 4); DIN and DOUT read their words, ERRCMD its word while ERR = 1 and else 0;
reserved offsets and CMD read 0; a write to a reserved or read-only offset changes nothing. -/
def Obligations.ReadsAndInertOffsets : Prop :=
  (∀ (s : State) (off : Nat), off < 256 → off % 4 = 0 →
    (0x40 ≤ off ∨ off = 0x14 → s.windowRead off = 0) ∧
    (off ≠ 0x0C → off ≠ 0x10 → off ≠ 0x14 → off ≠ 0x18 → ∀ (v : Word) (rest : List BusEvent),
      s.agenda = .write (s.cfg.engineBase + off) 4 v :: rest →
      step s = .next { s with agenda := rest })) ∧
  (∀ (s : State) (off : Nat) (rest : List BusEvent), off < 256 → off % 4 = 0 →
    s.agenda = .read (s.cfg.engineBase + off) 4 :: rest →
    step s = .next { s with agenda := rest, rdata := s.windowRead off }) ∧
  (∀ s : State, s.windowRead 0x18 = s.din ∧ s.windowRead 0x1C = s.dout ∧
    (s.err = true → s.windowRead 0x20 = s.errcmd) ∧ (s.err = false → s.windowRead 0x20 = 0))

/-- 20_memory.md R64: an access that is not 32 bits wide at a multiple of 4 is a write with no effect or a
read of 0 (the word goes to `rdata`, the model's own field, log 4). An access is placed by its first byte alone,
which is the model's choice (log 7): one that starts in the window and ends past it is ignored or reads 0, one
that starts below the window is outside. That an access outside the window of R60 stops the model by name is the
model's choice too (log 6). -/
def Obligations.OtherAccesses : Prop :=
  (∀ (s : State) (off bytes : Nat) (v : Word) (rest : List BusEvent), off < 256 →
    (bytes ≠ 4 ∨ off % 4 ≠ 0) →
    (s.agenda = .write (s.cfg.engineBase + off) bytes v :: rest →
      step s = .next { s with agenda := rest }) ∧
    (s.agenda = .read (s.cfg.engineBase + off) bytes :: rest →
      step s = .next { s with agenda := rest, rdata := 0 })) ∧
  (∀ (s : State) (addr bytes : Nat) (v : Word) (rest : List BusEvent),
    (addr < s.cfg.engineBase ∨ s.cfg.engineBase + 256 ≤ addr) →
    (s.agenda = .write addr bytes v :: rest → step s = .fault (.addressOutsideWindow addr)) ∧
    (s.agenda = .read addr bytes :: rest → step s = .fault (.addressOutsideWindow addr)))

/-- 70_reset_and_hazards.md R320, R321 with 10_state.md R45: the reset input and CTRL.SRST have the same
effect in every state, whatever the other bits of the write: every piece of state at its reset value, in
RESET_CLEAR with BUSY = 1. That the parameters, the agenda and `rdata` stay is the model's choice (log 16),
and so is the value of the latched command word (log 5). -/
def Obligations.SoftResetEqualsHardwareReset : Prop :=
  ∀ (s : State) (v : Word) (rest : List BusEvent), v.getLsbD 0 = true →
    ∃ t, step { s with agenda := .reset :: rest } = .next t ∧
      step { s with agenda := .write (s.cfg.engineBase + 0x0C) 4 v :: rest } = .next t ∧
      (∀ i, t.readE i = 0) ∧ (∀ i, t.readR i = 0) ∧ (∀ i, t.readP i = []) ∧
      t.field = ⟨false, 0, 0, [], []⟩ ∧ t.code = ⟨false, 0, 0, 0, false, [], 0⟩ ∧
      t.f = false ∧ t.dst = 0 ∧ t.doneie = false ∧ t.errie = false ∧ t.done = false ∧
      t.err = false ∧ t.ovr = false ∧ t.ecode = 0 ∧ t.errcmd = 0 ∧ t.din = 0 ∧ t.dout = 0 ∧
      t.phase = .resetClear ∧ t.busy = true ∧ t.irq = false ∧
      t.cfg = s.cfg ∧ t.agenda = rest ∧ t.rdata = s.rdata

/-- 70_reset_and_hazards.md R322: the state when BUSY first reads 0 after a reset of any state, with no host
access during the reset clear. R320: a CMD or DIN write during the clear is dropped, with OVR = 1 after it. That
a CTRL write accepted during the clear leaves DONEIE and ERRIE set after it is the model's choice (log 23). -/
def Obligations.ResetClearEndsInTheIdleResetState : Prop :=
  (∀ s : State, s.agenda = [.reset, .engine] →
    ∃ t u, step s = .next t ∧ t.busy = true ∧ step t = .next u ∧ u.busy = false ∧
      (∀ i, u.readE i = 0) ∧ (∀ i, u.readR i = 0) ∧ (∀ i, u.readP i = []) ∧
      u.field.fv = false ∧ u.code.cv = false ∧ u.f = false ∧ u.dst = 0 ∧ u.err = false ∧
      u.ecode = 0 ∧ u.errcmd = 0 ∧ u.done = false ∧ u.windowRead 0x0C = 0 ∧ u.irq = false ∧
      u.din = 0 ∧ u.dout = 0) ∧
  (∀ (s : State) (v : Word), v.getLsbD 0 = false →
    s.agenda = [.reset, .write (s.cfg.engineBase + 0x0C) 4 v, .engine] →
    ∃ t t' u, step s = .next t ∧ step t = .next t' ∧ step t' = .next u ∧ u.busy = false ∧
      u.irq = false ∧ u.doneie = v.getLsbD 2 ∧ u.errie = v.getLsbD 3) ∧
  (∀ (s : State) (off : Nat) (v : Word), off = 0x14 ∨ off = 0x18 →
    s.agenda = [.reset, .write (s.cfg.engineBase + off) 4 v, .engine] →
    ∃ t t' u, step s = .next t ∧ step t = .next t' ∧ step t' = .next u ∧ u.busy = false ∧
      u.ovr = true ∧ u.latch = t.latch ∧ u.din = 0 ∧ u.done = false)

/-- 60_exceptions.md R292, R293: IRQ after a completion, an error clear and a DONE clear. -/
def Obligations.IrqFollowsDoneAndErr : Prop :=
  (∀ (i : Instr) (s t : State), exec i s = .next t →
    (t.irq = true ↔ s.doneie = true ∨ (t.err = true ∧ s.errie = true))) ∧
  (∀ s : State, (s.writeStatus 0x2).irq = true ↔ s.err = true ∧ s.errie = true) ∧
  (∀ s : State, (s.writeCtrl 0xA).irq = false)

/-! ### All commands at once -/

/-- 20_memory.md R67, 70_reset_and_hazards.md R334: with no host access left, one step ends every phase in
IDLE (the model's choice, log 20), and a command's completion sets DONE. -/
def Obligations.EngineTurnEndsIdle : Prop :=
  (∀ s : State, s.agenda = [] → ∃ t, step s = .next t ∧ t.phase = .idle ∧ t.agenda = [] ∧
    (s.phase = .executing → t.done = true) ∧ (s.phase ≠ .executing → t.done = s.done)) ∧
  (∀ (i : Instr) (s : State), ∃ t, exec i s = .next t ∧ t.phase = .idle ∧ t.done = true)

/-- 60_exceptions.md R284: a command that raises an error makes exactly the writes of the error commit.
R281: no command raises an error that the table does not give it. -/
def Obligations.ErrorCommitOfAListedErrorAlone : Prop :=
  (∀ (i : Instr) (s t : State), s.err = false → exec i s = .next t →
    (t.err = true → ∃ code ∈ legalCodes, t = erroring s code) ∧
    (t.err = false → t.ecode = s.ecode ∧ t.errcmd = s.errcmd)) ∧
  (∀ (i : Instr) (s t : State), s.err = false → exec i s = .next t → t.err = true →
    i.wellFormed = true → t.ecode ∈ raisable i)

/-- 60_exceptions.md R281 (0x09, 0x0A), R287: without a field or a code, the commands that need one report
it and nothing else happens. -/
def Obligations.ValidityGatesComeFirst : Prop :=
  ∀ (i : Instr) (s : State), i.wellFormed = true →
    (needsFieldBuilt i = true → s.field.fv = false → exec i s = .next (erroring s 0x09)) ∧
    (needsCodeBuilt i = true → s.code.cv = false → exec i s = .next (erroring s 0x0A))

/-- 10_state.md R25: a command leaves every register that is not its destination unchanged. -/
def Obligations.OnlyDestinationRegistersChange : Prop :=
  ∀ (i : Instr) (s t : State), exec i s = .next t →
    (∀ j, eDest i ≠ some j → t.readE j = s.readE j) ∧
    (∀ j, rDest i ≠ some j → t.readR j = s.readR j) ∧
    (∀ j, j ∉ pDests i → t.readP j = s.readP j)

/-- 10_state.md R27, R28, R42, 70_reset_and_hazards.md R326: which commands may change F, DST, FIELD state,
CODE state and DOUT; CTRL, OVR, DIN, the parameters and the host's side are changed by none. -/
def Obligations.FlagsAndConstructionStateFrame : Prop :=
  ∀ (i : Instr) (s t : State), exec i s = .next t →
    (t.f ≠ s.f → i.op = .pgz ∨ i.op = .chien ∨ i.op = .corr ∨ i.op = .dec) ∧
    (t.dst ≠ s.dst → i.op = .dec ∧ t.dst ≠ 3) ∧
    (t.field ≠ s.field → i.op = .buildf ∧ t.field.fv = true ∧ t.code.cv = false) ∧
    (t.code ≠ s.code → i.op = .buildf ∨ (i.op = .buildc ∧ t.code.cv = true)) ∧
    (t.dout ≠ s.dout → i.op = .ste ∨ i.op = .str ∨ i.op = .stpc ∨ i.op = .stpb) ∧
    t.cfg = s.cfg ∧ t.doneie = s.doneie ∧ t.errie = s.errie ∧ t.ovr = s.ovr ∧ t.din = s.din ∧
    t.latch = s.latch ∧ t.agenda = s.agenda ∧ t.rdata = s.rdata

/-- 20_memory.md R71: a command's result does not depend on the host's pending accesses, on what it read, on
the interrupt enables or on OVR, and does not touch them. -/
def Obligations.CommandsDoNotSeeTheHostSide : Prop :=
  ∀ (i : Instr) (s t : State) (a : List BusEvent) (v : Word) (de ee ov : Bool),
    exec i s = .next t →
    exec i { s with agenda := a, rdata := v, doneie := de, errie := ee, ovr := ov } =
      .next { t with agenda := a, rdata := v, doneie := de, errie := ee, ovr := ov }

/-- 60_exceptions.md R286: while ERR = 1, no step but a CTRL write or a reset changes the latch, a register,
FIELD or CODE state, or starts a command. -/
def Obligations.ErrorLatchHoldsUntilCleared : Prop :=
  ∀ (s t : State) (ev : BusEvent) (rest : List BusEvent), s.Inv → s.err = true →
    s.agenda = ev :: rest → ev ≠ .reset →
    (∀ v, ev ≠ .write (s.cfg.engineBase + 0x0C) 4 v) → step s = .next t →
    t.err = true ∧ t.ecode = s.ecode ∧ t.errcmd = s.errcmd ∧ t.phase = .idle ∧
    t.e = s.e ∧ t.r = s.r ∧ t.p = s.p ∧ t.field = s.field ∧ t.code = s.code ∧ t.dout = s.dout ∧
    t.f = s.f ∧ t.dst = s.dst

/-- The invariant holds right after reset, for every build (10_state.md R45). -/
def Obligations.ResetStateMeetsTheInvariant : Prop :=
  State.reset.Inv ∧ ∀ c : Params, c.Valid → (State.resetOf c).Inv

/-- Every step keeps the invariant: register widths and canonical form, the tables of the built field, the
checks of the built code, CV = 1 implies FV = 1, the error latch, DST ≠ 3 (10_state.md R21, R24, R28, R31,
R35, R39, R40). The canonical form is the model's representation (log 12). -/
def Obligations.StepKeepsTheInvariant : Prop :=
  ∀ s t : State, s.Inv → step s = .next t → t.Inv

/-! ### Transfer commands -/

/-- 45_transfer.md R240: the success commit, which writes no register; "the only legal word is 0x0000_0000". -/
def Obligations.NopOnlyCompletes : Prop :=
  (∀ s : State, exec .nop s = .next (completed s)) ∧ ∀ w : Word, decode w = .ok .nop ↔ w = 0

/-- 45_transfer.md R241–R245, R250–R253: LDE, STE, EMOV; LDR, STR, LI, RMOV; PMOV and PCLR, every
coefficient. -/
def Obligations.RegisterTransfers : Prop :=
  (∀ (s : State) (d a : EReg), s.Inv →
    (∃ t, exec (.lde d) s = .next t ∧ WroteE s t d ∧
      (t.readE d).toNat = s.din.toNat % 2 ^ s.cfg.mMax) ∧
    (∃ t, exec (.ste a) s = .next t ∧ WroteDout s t ∧ t.dout.toNat = (s.readE a).toNat) ∧
    (∃ t, exec (.emov d a) s = .next t ∧ WroteE s t d ∧ t.readE d = s.readE a)) ∧
  (∀ (s : State) (d a : RReg) (imm : BitVec 10),
    (∃ t, exec (.ldr d) s = .next t ∧ WroteR s t d ∧ t.readR d = s.din) ∧
    (∃ t, exec (.str a) s = .next t ∧ WroteDout s t ∧ t.dout = s.readR a) ∧
    (∃ t, exec (.li d imm) s = .next t ∧ WroteR s t d ∧ (t.readR d).toInt = imm.toInt) ∧
    (∃ t, exec (.rmov d a) s = .next t ∧ WroteR s t d ∧ t.readR d = s.readR a)) ∧
  (∀ (s : State) (d a : PReg), s.Inv →
    (∃ t, exec (.pmov d a) s = .next t ∧ WroteP s t d ∧
      ∀ j, Poly.coef (t.readP d) j = Poly.coef (s.readP a) j) ∧
    (∃ t, exec (.pclr d) s = .next t ∧ WroteP s t d ∧ ∀ j, Poly.coef (t.readP d) j = 0))

/-- 45_transfer.md R246, R247, R254, R255: LDPC, STPC, PGET and PSET on an index inside the register. -/
def Obligations.CoefficientTransfers : Prop :=
  ∀ (s : State) (pd pa : PReg) (ed ea : EReg) (x : RReg), s.Inv →
    (s.readR x).toNat < s.cfg.polyLen →
    (∃ t, exec (.ldpc pd x) s = .next t ∧ WroteP s t pd ∧
      (Poly.coef (t.readP pd) (s.readR x).toNat).toNat = s.din.toNat % 2 ^ s.cfg.mMax ∧
      ∀ j, j ≠ (s.readR x).toNat → Poly.coef (t.readP pd) j = Poly.coef (s.readP pd) j) ∧
    (∃ t, exec (.stpc pa x) s = .next t ∧ WroteDout s t ∧
      t.dout.toNat = (Poly.coef (s.readP pa) (s.readR x).toNat).toNat) ∧
    (∃ t, exec (.pget ed pa x) s = .next t ∧ WroteE s t ed ∧
      t.readE ed = Poly.coef (s.readP pa) (s.readR x).toNat) ∧
    (∃ t, exec (.pset pd ea x) s = .next t ∧ WroteP s t pd ∧
      Poly.coef (t.readP pd) (s.readR x).toNat = s.readE ea ∧
      ∀ j, j ≠ (s.readR x).toNat → Poly.coef (t.readP pd) j = Poly.coef (s.readP pd) j)

/-- 45_transfer.md R248, R249, 20_memory.md R63: LDPB and STPB on a word index inside the register; bit i of
the word is position 32w + i. -/
def Obligations.BitPositionTransfers : Prop :=
  ∀ (s : State) (d a : PReg) (x : RReg), s.Inv → (s.readR x).toNat < s.cfg.polyLen / 32 →
    (∃ t, exec (.ldpb d x) s = .next t ∧ WroteP s t d ∧
      (∀ i, i < 32 → (Poly.coef (t.readP d) (32 * (s.readR x).toNat + i)).toNat =
        (s.din.getLsbD i).toNat) ∧
      ∀ j, (j < 32 * (s.readR x).toNat ∨ 32 * (s.readR x).toNat + 32 ≤ j) →
        Poly.coef (t.readP d) j = Poly.coef (s.readP d) j) ∧
    (∃ t, exec (.stpb a x) s = .next t ∧ WroteDout s t ∧
      ∀ i, i < 32 → t.dout.getLsbD i =
        (Poly.coef (s.readP a) (32 * (s.readR x).toNat + i)).getLsbD 0)

/-- 45_transfer.md R239, 60_exceptions.md R281 (0x0C): an index outside the register is IndexOutOfRange and
changes nothing else. -/
def Obligations.IndexOutOfRangeIsAnError : Prop :=
  ∀ (s : State) (pd pa : PReg) (ed ea : EReg) (x : RReg),
    (s.cfg.polyLen ≤ (s.readR x).toNat →
      exec (.ldpc pd x) s = .next (erroring s 0x0C) ∧
      exec (.stpc pa x) s = .next (erroring s 0x0C) ∧
      exec (.pget ed pa x) s = .next (erroring s 0x0C) ∧
      exec (.pset pd ea x) s = .next (erroring s 0x0C)) ∧
    (s.cfg.polyLen / 32 ≤ (s.readR x).toNat →
      exec (.ldpb pd x) s = .next (erroring s 0x0C) ∧
      exec (.stpb pa x) s = .next (erroring s 0x0C))

/-- 45_transfer.md R256: the index of the highest nonzero coefficient of the raw register, or −1. -/
def Obligations.PdegIsTheHighestNonzeroIndex : Prop :=
  ∀ (s : State) (d : RReg) (a : PReg), s.Inv →
    ∃ t, exec (.pdeg d a) s = .next t ∧ WroteR s t d ∧
      ((∀ j, Poly.coef (s.readP a) j = 0) → t.readR d = 0xFFFFFFFF) ∧
      ∀ j, Poly.coef (s.readP a) j ≠ 0 → (∀ k, j < k → Poly.coef (s.readP a) k = 0) →
        (t.readR d).toNat = j

/-! ### Field commands -/

/-- 40_field.md R121, R122: BUILDF accepts exactly 1 ≤ m ≤ M_MAX with P of degree m whose root has order
2^m − 1; then it replaces the field, with ALOG[j] = α^j, and clears the code; else nothing changes but
the error latch. -/
def Obligations.BuildfAcceptsExactlyPrimitivePolynomials : Prop :=
  ∀ (s : State) (a b : RReg), s.cfg.Valid →
    let m := (s.readR a).toNat
    let P := (s.readR b).toNat
    (1 ≤ m ∧ m ≤ s.cfg.mMax ∧ P / 2 ^ m = 1 ∧ Primitive m P →
      ∃ t, exec (.buildf a b) s = .next t ∧
        t = { s with field := t.field, code := CodeState.reset, done := true, phase := .idle } ∧
        t.field.fv = true ∧ t.field.m = s.readR a ∧ t.field.poly = s.readR b ∧
        t.field.alog.length = 2 ^ m - 1 ∧
        ∀ j, j < 2 ^ m - 1 → (t.field.alogAt j).toNat = alphaPower m P j) ∧
    (¬ (1 ≤ m ∧ m ≤ s.cfg.mMax ∧ P / 2 ^ m = 1 ∧ Primitive m P) →
      exec (.buildf a b) s = .next (erroring s 0x01))

/-- 40_field.md R123. -/
def Obligations.FaddIsXorOfTheFieldBits : Prop :=
  ∀ (s : State) (d a b : EReg), s.Inv → s.field.fv = true →
    ∃ t, exec (.fadd d a b) s = .next t ∧ WroteE s t d ∧
      ∀ k, (t.readE d).getLsbD k =
        (decide (k < s.field.deg) && ((s.readE a).getLsbD k != (s.readE b).getLsbD k))

/-- 40_field.md R124: the table product is the product of a(x) and b(x) in GF(2)[x] reduced modulo P(x). -/
def Obligations.FmulIsTheProductModuloP : Prop :=
  ∀ (s : State) (d a b : EReg), s.Inv → s.field.fv = true →
    ∃ t, exec (.fmul d a b) s = .next t ∧ WroteE s t d ∧
      (t.readE d).toNat =
        mulMod s.field.deg s.field.poly.toNat (s.feReg a).toNat (s.feReg b).toNat

/-- 40_field.md R125: FINV gives the element whose product with the operand is 1, and DivisionByZero on an
operand whose field bits are all 0. -/
def Obligations.FinvIsTheInverse : Prop :=
  ∀ (s : State) (d a : EReg), s.Inv → s.field.fv = true →
    (s.feReg a ≠ 0 → ∃ t, exec (.finv d a) s = .next t ∧ WroteE s t d ∧
      s.field.mul (s.feReg a) (t.readE d) = 1) ∧
    (s.feReg a = 0 → exec (.finv d a) s = .next (erroring s 0x03))

/-- 40_field.md R126: a nonnegative exponent is the repeated product, a negative one its inverse, and the base
0 by the sign of the exponent. -/
def Obligations.FpowIsTheSignedPower : Prop :=
  ∀ (s : State) (d a : EReg) (b : RReg), s.Inv → s.field.fv = true →
    let E := (s.readR b).toInt
    let power := fun n : Nat => (fun x => s.field.mul x (s.feReg a))^[n] 1
    (0 ≤ E → ∃ t, exec (.fpow d a b) s = .next t ∧ WroteE s t d ∧ t.readE d = power E.toNat) ∧
    (E < 0 → s.feReg a ≠ 0 → ∃ t, exec (.fpow d a b) s = .next t ∧ WroteE s t d ∧
      s.field.mul (t.readE d) (power (-E).toNat) = 1) ∧
    (E < 0 → s.feReg a = 0 → exec (.fpow d a b) s = .next (erroring s 0x03))

/-! ### Polynomial commands -/

/-- 41_poly_gf2.md R141, 42_poly_gf2m.md R161: PADD2 and PADDM, coefficient by coefficient. -/
def Obligations.PolynomialSums : Prop :=
  ∀ (s : State) (d a b : PReg), s.Inv →
    (∃ t, exec (.padd2 d a b) s = .next t ∧ WroteP s t d ∧ ∀ j, Poly.coef (t.readP d) j =
      lowBits 1 (Poly.coef (s.readP a) j) ^^^ lowBits 1 (Poly.coef (s.readP b) j)) ∧
    (s.field.fv = true → ∃ t, exec (.paddm d a b) s = .next t ∧ WroteP s t d ∧
      ∀ j, Poly.coef (t.readP d) j =
        s.field.fe (Poly.coef (s.readP a) j) ^^^ s.field.fe (Poly.coef (s.readP b) j))

/-- 41_poly_gf2.md R142, 42_poly_gf2m.md R162: PMUL2 and PMULM are the convolution, or
PolynomialOverflow. -/
def Obligations.ProductsAreConvolutions : Prop :=
  (∀ (s : State) (d a b : PReg), s.Inv →
    let A := s.proj2 a
    let B := s.proj2 b
    (A = [] ∨ B = [] ∨ Poly.deg A + Poly.deg B < s.cfg.polyLen →
      ∃ t, exec (.pmul2 d a b) s = .next t ∧ WroteP s t d ∧
        ∀ j, Poly.coef (t.readP d) j = conv and2 A B j) ∧
    (A ≠ [] → B ≠ [] → s.cfg.polyLen ≤ Poly.deg A + Poly.deg B →
      exec (.pmul2 d a b) s = .next (erroring s 0x0B))) ∧
  (∀ (s : State) (d a b : PReg), s.Inv → s.field.fv = true →
    let A := s.projm a
    let B := s.projm b
    (A = [] ∨ B = [] ∨ Poly.deg A + Poly.deg B < s.cfg.polyLen →
      ∃ t, exec (.pmulm d a b) s = .next t ∧ WroteP s t d ∧
        ∀ j, Poly.coef (t.readP d) j = conv s.field.mul A B j) ∧
    (A ≠ [] → B ≠ [] → s.cfg.polyLen ≤ Poly.deg A + Poly.deg B →
      exec (.pmulm d a b) s = .next (erroring s 0x0B)))

/-- 41_poly_gf2.md R143, 42_poly_gf2m.md R163: a = q·b + r with deg r < deg b, q and r with
coefficients of the ring (R140, R160), and DivisionByZeroPolynomial. -/
def Obligations.DivisionsAreEuclidean : Prop :=
  (∀ (s : State) (d c a b : PReg), s.Inv → d ≠ c →
    (s.proj2 b ≠ [] → ∃ t, exec (.pdiv2 d c a b) s = .next t ∧ WrotePP s t d c ∧
      Coefs 1 (t.readP d) ∧ Coefs 1 (t.readP c) ∧
      (∀ j, Poly.coef (s.proj2 a) j =
        conv and2 (t.readP d) (s.proj2 b) j ^^^ Poly.coef (t.readP c) j) ∧
      Poly.deg (t.readP c) < Poly.deg (s.proj2 b)) ∧
    (s.proj2 b = [] → exec (.pdiv2 d c a b) s = .next (erroring s 0x04))) ∧
  (∀ (s : State) (d c a b : PReg), s.Inv → s.field.fv = true → d ≠ c →
    (s.projm b ≠ [] → ∃ t, exec (.pdivm d c a b) s = .next t ∧ WrotePP s t d c ∧
      Coefs s.field.deg (t.readP d) ∧ Coefs s.field.deg (t.readP c) ∧
      (∀ j, Poly.coef (s.projm a) j =
        conv s.field.mul (t.readP d) (s.projm b) j ^^^ Poly.coef (t.readP c) j) ∧
      Poly.deg (t.readP c) < Poly.deg (s.projm b)) ∧
    (s.projm b = [] → exec (.pdivm d c a b) s = .next (erroring s 0x04)))

/-- 41_poly_gf2.md R144, 42_poly_gf2m.md R164: PEVAL2 is the constant term at 0 and the parity at 1; PEVALM is
Horner's loop from deg a down to 0, which gives a_0 at the point 0, and is the evaluation the codec's
statements speak of. -/
def Obligations.PolynomialEvaluation : Prop :=
  ∀ (s : State) (d : EReg) (a : PReg) (b : EReg), s.Inv →
    (∃ t, exec (.peval2 d a b) s = .next t ∧ WroteE s t d ∧
      ((s.readE b).getLsbD 0 = false → t.readE d = Poly.coef (s.proj2 a) 0) ∧
      ((s.readE b).getLsbD 0 = true → t.readE d = xorSum s.cfg.polyLen (Poly.coef (s.proj2 a)))) ∧
    (s.field.fv = true → ∃ t, exec (.pevalm d a b) s = .next t ∧ WroteE s t d ∧
      t.readE d = (List.range (s.projm a).length).reverse.foldl
        (fun v j => s.field.mul v (s.feReg b) ^^^ Poly.coef (s.projm a) j) 0 ∧
      t.readE d = Poly.eval s.field.arith (s.projm a) (s.feReg b) ∧
      (s.feReg b = 0 → t.readE d = Poly.coef (s.projm a) 0))

/-- 41_poly_gf2.md R145: PGCD2 divides both operands, and every common divisor divides it; its coefficients are 0
or 1 (R140). -/
def Obligations.Pgcd2IsTheGreatestCommonDivisor : Prop :=
  ∀ (s : State) (d a b : PReg), s.Inv →
    ∃ t, exec (.pgcd2 d a b) s = .next t ∧ WroteP s t d ∧
      t.readP d = Poly.gcd Arith.gf2 (s.proj2 a) (s.proj2 b) ∧ Coefs 1 (t.readP d) ∧
      Divides and2 1 (t.readP d) (s.proj2 a) ∧ Divides and2 1 (t.readP d) (s.proj2 b) ∧
      (∀ h : Poly, Coefs 1 h → Divides and2 1 h (s.proj2 a) →
        Divides and2 1 h (s.proj2 b) → Divides and2 1 h (t.readP d)) ∧
      (s.proj2 b = [] → t.readP d = s.proj2 a)

/-- 41_poly_gf2.md R146, R147: PLCM2 is 0 with a zero operand; else gcd · lcm = a · b with coefficients 0 or 1 (R140), or
PolynomialOverflow by the degree of the result alone. -/
def Obligations.Plcm2TimesGcdIsTheProduct : Prop :=
  ∀ (s : State) (d a b : PReg), s.Inv →
    let A := s.proj2 a
    let B := s.proj2 b
    let G := Poly.gcd Arith.gf2 A B
    (A = [] ∨ B = [] → ∃ t, exec (.plcm2 d a b) s = .next t ∧ WroteP s t d ∧ t.readP d = []) ∧
    (A ≠ [] → B ≠ [] → Poly.deg A + Poly.deg B - Poly.deg G < s.cfg.polyLen →
      ∃ t, exec (.plcm2 d a b) s = .next t ∧ WroteP s t d ∧
        Coefs 1 (t.readP d) ∧ ∀ j, conv and2 G (t.readP d) j = conv and2 A B j) ∧
    (A ≠ [] → B ≠ [] → s.cfg.polyLen ≤ Poly.deg A + Poly.deg B - Poly.deg G →
      exec (.plcm2 d a b) s = .next (erroring s 0x0B))

/-- 42_poly_gf2m.md R165: PGCDM divides both operands, every common divisor divides it, it is 0 for two zero
operands and monic otherwise, and its coefficients are field elements (R160). -/
def Obligations.PgcdmIsTheMonicGcd : Prop :=
  ∀ (s : State) (d a b : PReg), s.Inv → s.field.fv = true →
    let A := s.projm a
    let B := s.projm b
    let div := Divides s.field.mul s.field.deg
    ∃ t, exec (.pgcdm d a b) s = .next t ∧ WroteP s t d ∧
      t.readP d = Poly.gcd s.field.arith A B ∧ Coefs s.field.deg (t.readP d) ∧
      div (t.readP d) A ∧ div (t.readP d) B ∧
      (∀ h : Poly, Coefs s.field.deg h → div h A → div h B → div h (t.readP d)) ∧
      (A = [] ∧ B = [] → t.readP d = []) ∧
      (A ≠ [] ∨ B ≠ [] → t.readP d ≠ [] ∧ Poly.lead (t.readP d) = 1)

/-- 42_poly_gf2m.md R166: PLCMM is 0 with a zero operand; else it is monic with field elements as coefficients
(R160) and gcd · lcm is a · b but for a constant, or PolynomialOverflow by the degree of the result alone. -/
def Obligations.PlcmmTimesGcdIsTheProduct : Prop :=
  ∀ (s : State) (d a b : PReg), s.Inv → s.field.fv = true →
    let A := s.projm a
    let B := s.projm b
    let G := Poly.gcd s.field.arith A B
    let mul := s.field.mul
    (A = [] ∨ B = [] → ∃ t, exec (.plcmm d a b) s = .next t ∧ WroteP s t d ∧ t.readP d = []) ∧
    (A ≠ [] → B ≠ [] → Poly.deg A + Poly.deg B - Poly.deg G < s.cfg.polyLen →
      ∃ t, exec (.plcmm d a b) s = .next t ∧ WroteP s t d ∧
        Coefs s.field.deg (t.readP d) ∧ t.readP d ≠ [] ∧ Poly.lead (t.readP d) = 1 ∧
        ∃ c : Elem, c ≠ 0 ∧ c.toNat < 2 ^ s.field.deg ∧
          ∀ j, mul c (conv mul G (t.readP d) j) = conv mul A B j) ∧
    (A ≠ [] → B ≠ [] → s.cfg.polyLen ≤ Poly.deg A + Poly.deg B - Poly.deg G →
      exec (.plcmm d a b) s = .next (erroring s 0x0B))

/-- 42_poly_gf2m.md R167: on operands whose coefficients are all 0 or 1 the GF(2^m) commands give the results
of the GF(2) commands. -/
def Obligations.FieldPolynomialsRestrictToGf2 : Prop :=
  ∀ (s : State) (d c a b : PReg), s.Inv → s.field.fv = true →
    s.projm a = s.proj2 a → s.projm b = s.proj2 b →
    exec (.paddm d a b) s = exec (.padd2 d a b) s ∧ exec (.pmulm d a b) s = exec (.pmul2 d a b) s ∧
    exec (.pdivm d c a b) s = exec (.pdiv2 d c a b) s ∧
    exec (.pgcdm d a b) s = exec (.pgcd2 d a b) s ∧ exec (.plcmm d a b) s = exec (.plcm2 d a b) s

/-! ### Minimal polynomials, generator and code -/

/-- 43_minpoly_generator.md R181, R182: MINPOLY is monic, its degree is the length of the Frobenius orbit,
which is between 1 and m; it is x for β = 0 and x + 1 for β = 1; M(β) = 0, and every coefficient of M is 0
or 1. -/
def Obligations.MinpolyIsTheMinimalPolynomial : Prop :=
  (∀ (s : State) (d : PReg) (a : EReg), s.Inv → s.field.fv = true →
    let β := s.feReg a
    let sq := fun x => s.field.mul x x
    ∃ t, exec (.minpoly d a) s = .next t ∧ WroteP s t d ∧ t.readP d = minimalPoly s.field β ∧
      (∃ n, 1 ≤ n ∧ n ≤ s.field.deg ∧ sq^[n] β = β ∧ (∀ i, 0 < i → i < n → sq^[i] β ≠ β) ∧
        Poly.deg (t.readP d) = n) ∧
      Poly.lead (t.readP d) = 1 ∧ (β = 0 → t.readP d = [0, 1]) ∧ (β = 1 → t.readP d = [1, 1])) ∧
  (∀ (s t : State) (d : PReg) (a : EReg), s.Inv → s.field.fv = true →
    exec (.minpoly d a) s = .next t →
    Poly.eval s.field.arith (t.readP d) (s.feReg a) = 0 ∧ ∀ j, (Poly.coef (t.readP d) j).toNat ≤ 1)

/-- 43_minpoly_generator.md R184, R185: the generator is the product of the minimal polynomials of the
exponents 1 … 2t that lie in no earlier exponent's cyclotomic coset. -/
def Obligations.GeneratorTakesEachConjugacyClassOnce : Prop :=
  ∀ (c : Params) (F : FieldState) (t : Nat), c.Valid → fieldBuilt c F → 2 * t + 1 ≤ F.q1 →
    generatorPoly F t =
      ((List.range' 1 (2 * t)).filter (fun i =>
          (List.range' 1 (i - 1)).all (fun j =>
            (List.range F.deg).all (fun e => 2 ^ e * j % F.q1 != i)))).foldl
        (fun g i => Poly.mul Arith.gf2 g (minimalPoly F (F.alogAt i))) [1]

/-- 43_minpoly_generator.md R183: GENB writes the generator of t where 2t + 1 ≤ 2^m − 1, with 1 for t = 0, and
does not look at T_MAX; else InvalidCodeParameters. -/
def Obligations.GenbWritesTheGenerator : Prop :=
  ∀ (s : State) (d : PReg) (a : RReg), s.Inv → s.field.fv = true →
    let t := (s.readR a).toNat
    (2 * t + 1 ≤ 2 ^ s.field.deg - 1 → ∃ u, exec (.genb d a) s = .next u ∧ WroteP s u d ∧
      (∀ j, j < s.cfg.polyLen → Poly.coef (u.readP d) j = Poly.coef (generatorPoly s.field t) j) ∧
      (t = 0 → u.readP d = [1])) ∧
    (2 ^ s.field.deg - 1 < 2 * t + 1 → exec (.genb d a) s = .next (erroring s 0x02))

/-- 43_minpoly_generator.md R186: BUILDC succeeds exactly where all its checks hold, and then writes the code
state alone; else InvalidCodeParameters with the old code in force. -/
def Obligations.BuildcChecksAndBuildsTheCode : Prop :=
  ∀ (s : State) (a b c : RReg) (ns : Bool), s.Inv → s.field.fv = true →
    let n := (s.readR a).toNat
    let k := (s.readR b).toNat
    let t := (s.readR c).toNat
    let g := generatorPoly s.field t
    let ok := 1 ≤ k ∧ k ≤ n ∧ n ≤ 2 ^ s.field.deg - 1 ∧ t ≤ s.cfg.tMax ∧
      2 * t + 1 ≤ 2 ^ s.field.deg - 1 ∧ Poly.deg g ≤ (n : Int) - k
    (ok → ∃ u, exec (.buildc a b c ns) s = .next u ∧
      u = { s with code := u.code, done := true, phase := .idle } ∧
      u.code.cv = true ∧ u.code.n = s.readR a ∧ u.code.k = s.readR b ∧ u.code.t = s.readR c ∧
      u.code.nonsys = ns ∧ u.code.gen = g ∧ (u.code.genDeg.toNat : Int) = Poly.deg g) ∧
    (¬ ok → exec (.buildc a b c ns) s = .next (erroring s 0x02))

/-- 43_minpoly_generator.md R188: GENRD copies GEN, whose degree is GEN_DEG. -/
def Obligations.GenrdCopiesTheGenerator : Prop :=
  ∀ (s : State) (d : PReg), s.Inv → s.code.cv = true →
    ∃ t, exec (.genrd d) s = .next t ∧ WroteP s t d ∧ t.readP d = s.code.gen ∧
      Poly.deg (t.readP d) = s.code.genDeg.toNat

/-- 43_minpoly_generator.md R187: the invariants of an accepted code. -/
def Obligations.AcceptedCodeInvariants : Prop :=
  ∀ s : State, s.Inv → s.code.cv = true →
    let n := s.code.n.toNat
    let k := s.code.k.toNat
    let t := s.code.t.toNat
    let q1 := 2 ^ s.field.deg - 1
    let g := s.code.gen
    (1 ≤ k ∧ k ≤ n ∧ n ≤ q1 ∧ t ≤ s.cfg.tMax ∧ 2 * t + 1 ≤ q1 ∧ Poly.deg g ≤ (n : Int) - k) ∧
    (∀ x ∈ g, x = 0 ∨ x = 1) ∧ Poly.coef g 0 = 1 ∧
    (∀ i, 1 ≤ i → i ≤ 2 * t → Poly.eval s.field.arith g (s.field.alogAt i) = 0) ∧
    Divides and2 1 g (xPowPlusOne q1) ∧ (n = q1 → Divides and2 1 g (xPowPlusOne n))

/-! ### Codec -/

/-- 44_codec.md R201, R202, R203: the codeword is a multiple of g of degree below n; systematic encoding keeps
the message in the high positions and the remainder of R202 (of degree below deg g, so there is one) in the
low ones, non-systematic encoding multiplies by g; a wrong length is an error.
`encodeMsg`, which the decoder's statements speak of, is the word ENC writes. -/
def Obligations.EncIsAMultipleOfTheGenerator : Prop :=
  ∀ (s : State) (d a : PReg) (b : RReg), s.Inv → s.code.cv = true →
    let n := s.code.n.toNat
    let k := s.code.k.toNat
    let msg := bitVector k (s.readP a)
    (s.readR b = s.code.k → ∃ t, exec (.enc d a b) s = .next t ∧ WroteP s t d ∧
      t.readP d = encodeMsg s.code msg ∧ Coefs 1 (t.readP d) ∧
      Divides and2 1 s.code.gen (t.readP d) ∧ Poly.deg (t.readP d) < n ∧
      (s.code.nonsys = false →
        (∀ j, j < k → Poly.coef (t.readP d) (n - k + j) = Poly.coef msg j) ∧
        ∀ j : Nat, Poly.deg s.code.gen ≤ j → j < n - k → Poly.coef (t.readP d) j = 0) ∧
      (s.code.nonsys = true →
        ∀ j, Poly.coef (t.readP d) j = conv and2 msg s.code.gen j)) ∧
    (s.readR b ≠ s.code.k → exec (.enc d a b) s = .next (erroring s 0x05))

/-- 44_codec.md R205, R206: s_i = rcv(α^i) in coefficient i for 1 ≤ i ≤ 2t, and 0 elsewhere; a wrong length is
an error. -/
def Obligations.SynWritesTheSyndromeVector : Prop :=
  ∀ (s : State) (d a : PReg) (b : RReg), s.Inv → s.code.cv = true →
    let rcv := bitVector s.code.n.toNat (s.readP a)
    (s.readR b = s.code.n → ∃ t, exec (.syn d a b) s = .next t ∧ WroteP s t d ∧
      ∀ i, Poly.coef (t.readP d) i =
        if 1 ≤ i ∧ i ≤ 2 * s.code.t.toNat then Poly.eval s.field.arith rcv (s.field.alogAt i)
        else 0) ∧
    (s.readR b ≠ s.code.n → exec (.syn d a b) s = .next (erroring s 0x06))

/-- 44_codec.md R205 with 40_field.md R127: a syndrome is the sum of α^(i·j) over the received 1 positions j. -/
def Obligations.SyndromeIsAPowerSum : Prop :=
  ∀ (s t : State) (d a : PReg) (b : RReg), s.Inv → s.code.cv = true → s.readR b = s.code.n →
    exec (.syn d a b) s = .next t →
    ∀ i, 1 ≤ i → i ≤ 2 * s.code.t.toNat → Poly.coef (t.readP d) i =
      xorSum s.code.n.toNat (fun j =>
        if (Poly.coef (s.readP a) j).getLsbD 0 then s.field.alogAt (i * j % s.field.q1) else 0)

/-- 44_codec.md R207: the syndromes are all zero exactly when g divides the received word. -/
def Obligations.SyndromesVanishExactlyOnMultiples : Prop :=
  ∀ (s t : State) (d a : PReg) (b : RReg), s.Inv → s.code.cv = true → s.readR b = s.code.n →
    exec (.syn d a b) s = .next t →
    ((∀ i, Poly.coef (t.readP d) i = 0) ↔
      Divides and2 1 s.code.gen (bitVector s.code.n.toNat (s.readP a)))

/-- 44_codec.md R208, R210: PGZ's three outcomes and when each is taken: μ is the largest value with M_μ
nonsingular, and only where every M_μ is singular do the syndromes decide between μ = 0 and Inconclusive. -/
def Obligations.PgzOutcomes : Prop :=
  ∀ (s : State) (d : PReg) (c : RReg) (a : PReg), s.Inv → s.code.cv = true →
    let S := fun i => s.field.fe (Poly.coef (s.readP a) i)
    let t := s.code.t.toNat
    let μ := fun u : State => (u.readR c).toNat
    let allSingular := ∀ ν, 1 ≤ ν → ν ≤ t → Singular s.field S ν
    ∃ u, exec (.pgz d c a) s = .next u ∧ WrotePRF s u d c ∧ Coefs s.field.deg (u.readP d) ∧
      ((u.f = false ∧ 1 ≤ μ u ∧ μ u ≤ t ∧ Poly.coef (u.readP d) 0 = 1 ∧ Poly.deg (u.readP d) ≤ μ u ∧
          ¬ Singular s.field S (μ u) ∧ ∀ ν, μ u < ν → ν ≤ t → Singular s.field S ν) ∨
       (u.f = false ∧ u.readR c = 0 ∧ u.readP d = [1] ∧ allSingular ∧
          ∀ i, 1 ≤ i → i ≤ 2 * t → S i = 0) ∨
       (u.f = true ∧ u.readR c = 0xFFFFFFFF ∧ u.readP d = [] ∧ allSingular ∧
          ∃ i, 1 ≤ i ∧ i ≤ 2 * t ∧ S i ≠ 0))

/-- 44_codec.md R209, R210: an accepted Λ with μ ≥ 1 solves the Newton identities of its μ and is their only
solution, and PGZ accepts one wherever some M_μ is nonsingular. -/
def Obligations.PgzSolvesTheNewtonIdentities : Prop :=
  ∀ (s u : State) (d : PReg) (c : RReg) (a : PReg), s.Inv → s.code.cv = true →
    exec (.pgz d c a) s = .next u →
    let S := fun i => s.field.fe (Poly.coef (s.readP a) i)
    let t := s.code.t.toNat
    let μ := (u.readR c).toNat
    let solves := fun (Λ : Nat → Elem) (μ : Nat) => ∀ row, 1 ≤ row → row ≤ μ →
      S (μ + row) = xorSum μ (fun j => s.field.mul (Λ (j + 1)) (S (μ + row - (j + 1))))
    (u.f = false → solves (Poly.coef (u.readP d)) μ) ∧
    (u.f = false → ∀ Λ : Nat → Elem, (∀ j, 1 ≤ j → j ≤ μ → (Λ j).toNat < 2 ^ s.field.deg) → solves Λ μ →
      ∀ j, 1 ≤ j → j ≤ μ → Λ j = Poly.coef (u.readP d) j) ∧
    ((∃ ν, 1 ≤ ν ∧ ν ≤ t ∧ ¬ Singular s.field S ν) → u.f = false ∧ 1 ≤ μ)

/-- 44_codec.md R212: CHIEN marks the positions below n where Λ(α^{−i}) = 0, counts them, and fails where the
count is not Λ's true degree. -/
def Obligations.ChienMarksTheRoots : Prop :=
  ∀ (s : State) (d : PReg) (c : RReg) (a : PReg), s.Inv → s.code.cv = true →
    let Λ := s.projm a
    let root := fun i => decide (Poly.eval s.field.arith Λ
      (s.field.alogAt ((s.field.q1 - i) % s.field.q1)) = 0)
    ∃ t, exec (.chien d c a) s = .next t ∧ WrotePRF s t d c ∧
      (∀ i, Poly.coef (t.readP d) i = if i < s.code.n.toNat ∧ root i then 1 else 0) ∧
      (t.readR c).toNat = ((List.range s.code.n.toNat).filter root).length ∧
      (t.f = true ↔ ((t.readR c).toNat : Int) ≠ Poly.deg Λ)

/-- 44_codec.md R215, R216, R217: CORR emits the flipped word and a message that encodes to it, or zeros
with F = 1; F = 0 exactly where some message of degree below k encodes to the flipped word. -/
def Obligations.CorrEmitsOnlyCheckedMessages : Prop :=
  ∀ (s : State) (d c a b : PReg), s.Inv → s.code.cv = true → d ≠ c →
    let flipped := fun j => if j < s.code.n.toNat
      then lowBits 1 (Poly.coef (s.readP a) j) ^^^ lowBits 1 (Poly.coef (s.readP b) j) else 0
    ∃ t, exec (.corr d c a b) s = .next t ∧ WrotePPF s t d c ∧
      ((t.f = false ∧ t.readP d = encodeMsg s.code (t.readP c) ∧
          Poly.deg (t.readP c) < s.code.k.toNat ∧ Coefs 1 (t.readP c) ∧
          ∀ j, Poly.coef (t.readP d) j = flipped j) ∨
       (t.f = true ∧ t.readP d = [] ∧ t.readP c = [])) ∧
      (t.f = false ↔ ∃ msg : Poly, Coefs 1 msg ∧ Poly.deg msg < s.code.k.toNat ∧
        ∀ j, Poly.coef (encodeMsg s.code msg) j = flipped j)

/-- 44_codec.md R219: DEC's three outcomes; a message is emitted only if it encodes to the corrected word; a
wrong length is an error. DEC is SYN, PGZ, CHIEN and CORR in sequence: it fails exactly where one of them sets
F, and else gives CORR's message and CHIEN's mask. -/
def Obligations.DecOutcomes : Prop :=
  (∀ (s : State) (d c a : PReg) (b : RReg), s.Inv → s.code.cv = true → d ≠ c →
    let rcv := bitVector s.code.n.toNat (s.readP a)
    let clean := ∀ i, 1 ≤ i → i ≤ 2 * s.code.t.toNat →
      Poly.eval s.field.arith rcv (s.field.alogAt i) = 0
    (s.readR b = s.code.n → ∃ t, exec (.dec d c a b) s = .next t ∧ WrotePPFDst s t d c ∧
      ((t.dst = 0 ∧ t.f = false ∧ clean ∧ t.readP c = [] ∧ encodeMsg s.code (t.readP d) = rcv) ∨
       (t.dst = 1 ∧ t.f = false ∧ ¬ clean ∧
          encodeMsg s.code (t.readP d) = Poly.add rcv (t.readP c)) ∨
       (t.dst = 2 ∧ t.f = true ∧ t.readP d = [] ∧ t.readP c = []))) ∧
    (s.readR b ≠ s.code.n → exec (.dec d c a b) s = .next (erroring s 0x06))) ∧
  (∀ (s s₁ s₂ s₃ s₄ t : State) (d c a x y z w m : PReg) (b r r' : RReg), s.Inv → s.code.cv = true →
    s.readR b = s.code.n → d ≠ c → x ≠ a → y ≠ a → z ≠ a → w ≠ m →
    exec (.syn x a b) s = .next s₁ → exec (.pgz y r x) s₁ = .next s₂ →
    exec (.chien z r' y) s₂ = .next s₃ → exec (.corr w m a z) s₃ = .next s₄ →
    exec (.dec d c a b) s = .next t →
    let ok := s₂.f = false ∧ s₃.f = false ∧ s₄.f = false
    let clean := ∀ i, Poly.coef (s₁.readP x) i = 0
    (ok → t.f = false ∧ t.readP d = s₄.readP m ∧ t.readP c = s₃.readP z ∧
      (clean → t.dst = 0) ∧ (¬ clean → t.dst = 1)) ∧
    (¬ ok → t.f = true ∧ t.dst = 2 ∧ t.readP d = [] ∧ t.readP c = []))

/-- 44_codec.md R216, R220: CORR with an empty mask gives back the message ENC encoded, and DEC gives NOERROR
with that message and no error position. 44_codec.md R219: CORRECTED always comes with a nonempty mask. -/
def Obligations.RoundTripThroughTheCode : Prop :=
  (∀ (s t : State) (d a d' c' m : PReg) (b : RReg), s.Inv → s.code.cv = true →
    s.readR b = s.code.k → exec (.enc d a b) s = .next t → d' ≠ c' →
    bitVector s.code.n.toNat (t.readP m) = [] →
    ∃ u, exec (.corr d' c' d m) t = .next u ∧ u.f = false ∧ u.readP d' = t.readP d ∧
      u.readP c' = bitVector s.code.k.toNat (s.readP a)) ∧
  (∀ (s t : State) (d a d' c' : PReg) (b b' : RReg), s.Inv → s.code.cv = true →
    s.readR b = s.code.k → s.readR b' = s.code.n → exec (.enc d a b) s = .next t → d' ≠ c' →
    ∃ u, exec (.dec d' c' d b') t = .next u ∧ u.dst = 0 ∧ u.f = false ∧
      u.readP d' = bitVector s.code.k.toNat (s.readP a) ∧ u.readP c' = []) ∧
  (∀ (s t : State) (d c a : PReg) (b : RReg), s.Inv → s.code.cv = true → d ≠ c →
    s.readR b = s.code.n → exec (.dec d c a b) s = .next t → t.dst = 1 → t.readP c ≠ [])

end
end

