-- ==== Sys2Proof/Laws/Decode.lean ====
section
/-! SUPPORT. The fields of an assembled word, and the opcode map read backwards. -/

namespace Sys2Proof

/-- The bit a register field starts at (30_encoding.md R91). -/
def fieldShift : FieldName → Nat
  | .D => 22
  | .A => 18
  | .B => 14
  | .C => 10

theorem regField_val (w : Word) (f : FieldName) :
    (regField w f).val = w.toNat / 2 ^ fieldShift f % 16 := by
  cases f <;> exact congrArg (· % 16) (Nat.shiftRight_eq_div_pow _ _)

theorem opField_val (w : Word) : opField w = w.toNat / 2 ^ 26 % 64 := by
  simp [opField, BitVec.extractLsb'_toNat, Nat.shiftRight_eq_div_pow]

theorem immField_val (w : Word) : (immField w).toNat = w.toNat % 1024 := by
  simp [immField, BitVec.extractLsb'_toNat]

section
variable {op d a b c imm : Nat}
  (hop : op < 64) (hd : d < 16) (ha : a < 16) (hb : b < 16) (hc : c < 16) (hi : imm < 1024)
include hop hd ha hb hc hi

theorem assemble_toNat : (assemble op d a b c imm).toNat =
    op * 2 ^ 26 + d * 2 ^ 22 + a * 2 ^ 18 + b * 2 ^ 14 + c * 2 ^ 10 + imm := by
  rw [assemble, BitVec.toNat_ofNat]
  exact Nat.mod_eq_of_lt (by omega)

theorem opField_assemble : opField (assemble op d a b c imm) = op := by
  rw [opField_val, assemble_toNat hop hd ha hb hc hi]
  omega

theorem regField_D_assemble : (regField (assemble op d a b c imm) .D).val = d := by
  rw [regField_val, assemble_toNat hop hd ha hb hc hi, fieldShift]
  omega

theorem regField_A_assemble : (regField (assemble op d a b c imm) .A).val = a := by
  rw [regField_val, assemble_toNat hop hd ha hb hc hi, fieldShift]
  omega

theorem regField_B_assemble : (regField (assemble op d a b c imm) .B).val = b := by
  rw [regField_val, assemble_toNat hop hd ha hb hc hi, fieldShift]
  omega

theorem regField_C_assemble : (regField (assemble op d a b c imm) .C).val = c := by
  rw [regField_val, assemble_toNat hop hd ha hb hc hi, fieldShift]
  omega

theorem immField_assemble : (immField (assemble op d a b c imm)).toNat = imm := by
  rw [immField_val, assemble_toNat hop hd ha hb hc hi]
  omega

end

theorem format_code_lt (o : Op) : o.format.code < 64 := by
  cases o <;> decide

/-- Reading the opcode map backwards gives the command back: no two rows share an OP value. -/
theorem ofCode_code (o : Op) : Op.ofCode o.format.code = some o := by
  cases o <;> decide

/-- Every OP value the map lists is its command's. -/
theorem code_of_ofCode {n : Nat} {o : Op} (h : Op.ofCode n = some o) : o.format.code = n := by
  simpa using List.find?_some h

theorem operands_bounds (i : Instr) :
    i.operands.d < 16 ∧ i.operands.a < 16 ∧ i.operands.b < 16 ∧ i.operands.c < 16 ∧
    i.operands.imm < 1024 := by
  cases i <;> simp only [Instr.operands] <;> refine ⟨?_, ?_, ?_, ?_, ?_⟩ <;>
    first
    | omega
    | exact BitVec.isLt _
    | (rename_i ns; cases ns <;> decide)

end Sys2Proof
end

