-- ==== Sys2Proof/Laws/Poly.lean ====
section
/-! SUPPORT. The coefficient lemmas of the polynomial operations, and the canonical form of a stored
polynomial. -/

namespace Sys2Proof.Machine

/-! ### Low bits -/

theorem lowBits_toNat (n : Nat) (v : Elem) : (lowBits n v).toNat = v.toNat % 2 ^ n := by
  have h : v.toNat % 2 ^ n ≤ v.toNat := Nat.mod_le _ _
  have := v.isLt
  simp only [lowBits, BitVec.toNat_ofNat]
  exact Nat.mod_eq_of_lt (by omega)

theorem lowBits_lt (n : Nat) (v : Elem) : (lowBits n v).toNat < 2 ^ n := by
  rw [lowBits_toNat]
  exact Nat.mod_lt _ (Nat.two_pow_pos n)

theorem lowBits_of_lt {n : Nat} {v : Elem} (h : v.toNat < 2 ^ n) : lowBits n v = v := by
  apply BitVec.eq_of_toNat_eq
  rw [lowBits_toNat, Nat.mod_eq_of_lt h]

@[simp] theorem lowBits_zero (n : Nat) : lowBits n 0#16 = 0#16 := by
  apply BitVec.eq_of_toNat_eq
  rw [lowBits_toNat]
  simp

theorem lowBits_lowBits {m n : Nat} (h : m ≤ n) (v : Elem) : lowBits n (lowBits m v) = lowBits m v :=
  lowBits_of_lt (Nat.lt_of_lt_of_le (lowBits_lt m v) (Nat.pow_le_pow_right (by decide) h))

theorem lowBits_xor (n : Nat) (a b : Elem) : lowBits n (a ^^^ b) = lowBits n a ^^^ lowBits n b := by
  apply BitVec.eq_of_toNat_eq
  simp only [lowBits_toNat, BitVec.toNat_xor, Nat.xor_mod_two_pow]

/-! ### Coefficients -/

@[simp] theorem coef_nil (j : Nat) : Poly.coef [] j = 0#16 := rfl

@[simp] theorem coef_cons_zero (a : Elem) (p : Poly) : Poly.coef (a :: p) 0 = a := rfl

@[simp] theorem coef_cons_succ (a : Elem) (p : Poly) (j : Nat) :
    Poly.coef (a :: p) (j + 1) = Poly.coef p j := rfl

theorem coef_of_length_le {p : Poly} {j : Nat} (h : p.length ≤ j) : Poly.coef p j = 0#16 := by
  simp [Poly.coef, List.getD, List.getElem?_eq_none h]

theorem trim_cons_of_ne {p : Poly} (a : Elem) (h : Poly.trim p ≠ []) :
    Poly.trim (a :: p) = a :: Poly.trim p := by
  rw [Poly.trim]
  split
  · contradiction
  · rfl

theorem trim_cons_of_eq {p : Poly} (a : Elem) (h : Poly.trim p = []) :
    Poly.trim (a :: p) = if a = 0#16 then [] else [a] := by
  rw [Poly.trim, h]
  rfl

@[simp] theorem coef_trim (p : Poly) (j : Nat) : Poly.coef (Poly.trim p) j = Poly.coef p j := by
  induction p generalizing j with
  | nil => rfl
  | cons a p ih =>
    by_cases h : Poly.trim p = []
    · have h0 : ∀ k, Poly.coef p k = 0#16 := fun k => by rw [← ih k, h]; rfl
      rw [trim_cons_of_eq a h]
      by_cases ha : a = 0#16 <;> cases j <;> simp [ha, h0]
    · rw [trim_cons_of_ne a h]
      cases j <;> simp [ih]

theorem trim_length_le (p : Poly) : (Poly.trim p).length ≤ p.length := by
  induction p with
  | nil => simp [Poly.trim]
  | cons a p ih =>
    by_cases h : Poly.trim p = []
    · rw [trim_cons_of_eq a h]
      split <;> simp
    · rw [trim_cons_of_ne a h]
      simpa using ih

@[simp] theorem trim_trim (p : Poly) : Poly.trim (Poly.trim p) = Poly.trim p := by
  induction p with
  | nil => rfl
  | cons a p ih =>
    by_cases h : Poly.trim p = []
    · rw [trim_cons_of_eq a h]
      split
      · rfl
      · simp_all [Poly.trim]
    · rw [trim_cons_of_ne a h, trim_cons_of_ne a (by rwa [ih]), ih]

theorem mem_of_mem_trim {p : Poly} {x : Elem} (h : x ∈ Poly.trim p) : x ∈ p := by
  induction p with
  | nil => simp [Poly.trim] at h
  | cons a p ih =>
    by_cases hp : Poly.trim p = []
    · rw [trim_cons_of_eq a hp] at h
      split at h <;> simp_all
    · rw [trim_cons_of_ne a hp] at h
      rcases List.mem_cons.mp h with rfl | h
      · simp
      · exact List.mem_cons_of_mem _ (ih h)

/-- Trimmed polynomials with equal coefficients are equal lists. -/
theorem trim_eq_of_coef {p q : Poly} (h : ∀ j, Poly.coef p j = Poly.coef q j) :
    Poly.trim p = Poly.trim q := by
  induction p generalizing q with
  | nil =>
    have hz : ∀ q : Poly, (∀ j, Poly.coef q j = 0#16) → Poly.trim q = [] := by
      intro q
      induction q with
      | nil => intro; rfl
      | cons b q ih =>
        intro hq
        have h0 : b = 0#16 := by simpa using hq 0
        rw [trim_cons_of_eq b (ih fun j => by simpa using hq (j + 1)), if_pos h0]
    exact (hz q fun j => (h j).symm).symm
  | cons a p ih =>
    cases q with
    | nil =>
      have hp : Poly.trim p = Poly.trim [] := ih fun j => by simpa using h (j + 1)
      have ha : a = 0#16 := by simpa using h 0
      rw [trim_cons_of_eq a hp, if_pos ha]
      rfl
    | cons b q =>
      have hpq : Poly.trim p = Poly.trim q := ih fun j => by simpa using h (j + 1)
      have hab : a = b := by simpa using h 0
      subst hab
      by_cases hp : Poly.trim p = []
      · rw [trim_cons_of_eq a hp, trim_cons_of_eq a (hpq ▸ hp)]
      · rw [trim_cons_of_ne a hp, trim_cons_of_ne a (hpq ▸ hp), hpq]

theorem coef_map {g : Elem → Elem} (h0 : g 0#16 = 0#16) (p : Poly) (j : Nat) :
    Poly.coef (p.map g) j = g (Poly.coef p j) := by
  induction p generalizing j with
  | nil => simp [h0]
  | cons a p ih => cases j <;> simp [ih]

theorem coef_tabulate (n : Nat) (g : Nat → Elem) (j : Nat) :
    Poly.coef (Poly.tabulate n g) j = if j < n then g j else 0 := by
  rw [Poly.tabulate, coef_trim]
  split
  · simp [Poly.coef, List.getD, *]
  · exact coef_of_length_le (by simp; omega)

@[simp] theorem coef_proj (n : Nat) (p : Poly) (j : Nat) :
    Poly.coef (Poly.proj n p) j = lowBits n (Poly.coef p j) := by
  rw [Poly.proj, coef_trim, coef_map (lowBits_zero n)]

@[simp] theorem coef_xorCoefs (p q : Poly) (j : Nat) :
    Poly.coef (Poly.xorCoefs p q) j = Poly.coef p j ^^^ Poly.coef q j := by
  induction p generalizing q j with
  | nil => simp [Poly.xorCoefs]
  | cons a p ih =>
    cases q with
    | nil => simp [Poly.xorCoefs]
    | cons b q => cases j <;> simp [Poly.xorCoefs, ih]

@[simp] theorem coef_add (p q : Poly) (j : Nat) :
    Poly.coef (Poly.add p q) j = Poly.coef p j ^^^ Poly.coef q j := by
  rw [Poly.add, coef_trim, coef_xorCoefs]

@[simp] theorem coef_bitVector (L : Nat) (P : Poly) (j : Nat) :
    Poly.coef (bitVector L P) j = if j < L then lowBits 1 (Poly.coef P j) else 0 := by
  rw [bitVector, coef_tabulate]

theorem coef_setCoef (P : Poly) (j : Nat) (v : Elem) (i : Nat) :
    Poly.coef (setCoef P j v) i = if i = j then v else Poly.coef P i := by
  rw [setCoef, coef_tabulate]
  by_cases hj : i = j
  · rw [if_pos (by omega), if_pos hj]
  · by_cases hi : i < P.length
    · rw [if_pos (by omega)]
    · have hP : Poly.coef P i = 0#16 := coef_of_length_le (by omega)
      simp [hj, hP]

theorem coef_scale {A : Arith} {c : Elem} (h0 : A.mul c 0#16 = 0#16) (p : Poly) (j : Nat) :
    Poly.coef (Poly.scale A c p) j = A.mul c (Poly.coef p j) := by
  rw [Poly.scale, coef_trim, coef_map h0]

@[simp] theorem coef_shift (s : Nat) (p : Poly) (j : Nat) :
    Poly.coef (Poly.shift s p) j = if j < s then 0#16 else Poly.coef p (j - s) := by
  rw [Poly.shift, coef_trim]
  by_cases h : j < s
  · simp [Poly.coef, List.getD, List.getElem?_append, h]
  · simp [Poly.coef, List.getD, List.getElem?_append, h]

theorem coef_setBits (P : Poly) (w : Nat) (x : Word) (i : Nat) :
    Poly.coef (setBits P w x) i =
      if 32 * w ≤ i ∧ i < 32 * w + 32 then (if x.getLsbD (i - 32 * w) then 1#16 else 0#16)
      else Poly.coef P i := by
  rw [setBits, coef_tabulate]
  by_cases hw : 32 * w ≤ i ∧ i < 32 * w + 32
  · rw [if_pos (by omega), if_pos hw, if_pos hw]
    rfl
  · by_cases hi : i < P.length
    · rw [if_pos (by omega), if_neg hw, if_neg hw]
    · have hP : Poly.coef P i = 0#16 := coef_of_length_le (by omega)
      simp [hw, hP]

/-- The highest coefficient of a trimmed nonzero polynomial is not 0. -/
theorem lead_trim_ne_zero {p : Poly} (h : Poly.trim p ≠ []) : Poly.lead (Poly.trim p) ≠ 0#16 := by
  induction p with
  | nil => exact absurd rfl h
  | cons a p ih =>
    by_cases hp : Poly.trim p = []
    · rw [trim_cons_of_eq a hp] at h ⊢
      split at h
      · contradiction
      · simp [Poly.lead, *]
    · rw [trim_cons_of_ne a hp]
      have := ih hp
      obtain ⟨b, q, hq⟩ := List.exists_cons_of_ne_nil hp
      rw [hq] at this ⊢
      simpa [Poly.lead] using this

/-! ### What a polynomial register keeps -/

theorem storeElem_lt (c : Params) (v : Elem) : (storeElem c v).toNat < 2 ^ c.mMax := lowBits_lt _ _

theorem storeElem_of_lt {c : Params} {v : Elem} (h : v.toNat < 2 ^ c.mMax) : storeElem c v = v :=
  lowBits_of_lt h

@[simp] theorem storeElem_zero (c : Params) : storeElem c 0#16 = 0#16 := lowBits_zero _

theorem coef_take (n : Nat) (p : Poly) (j : Nat) :
    Poly.coef (p.take n) j = if j < n then Poly.coef p j else 0 := by
  simp only [Poly.coef, List.getD, List.getElem?_take]
  split <;> rfl

theorem coef_storePoly (c : Params) (P : Poly) (j : Nat) :
    Poly.coef (storePoly c P) j = if j < c.polyLen then storeElem c (Poly.coef P j) else 0 := by
  rw [storePoly, coef_trim, coef_map (storeElem_zero c), coef_take]
  split <;> simp

/-- Every write of a polynomial register leaves it canonical and inside the register. -/
theorem storePoly_canonical (c : Params) (P : Poly) :
    Poly.trim (storePoly c P) = storePoly c P ∧ (storePoly c P).length ≤ c.polyLen ∧
    ∀ x ∈ storePoly c P, x.toNat < 2 ^ c.mMax := by
  refine ⟨trim_trim _, ?_, fun x hx => ?_⟩
  · refine Nat.le_trans (trim_length_le _) ?_
    simp
  · obtain ⟨y, -, rfl⟩ := List.mem_map.mp (mem_of_mem_trim hx)
    exact storeElem_lt c y

/-- Storing what a register can hold changes nothing. -/
theorem storePoly_of_fits {c : Params} {P : Poly} (ht : Poly.trim P = P) (hl : P.length ≤ c.polyLen)
    (hx : ∀ x ∈ P, x.toNat < 2 ^ c.mMax) : storePoly c P = P := by
  have h : P.map (storeElem c) = P := by
    refine (List.map_congr_left (g := fun x => x) fun x h => ?_).trans (List.map_id' P)
    exact storeElem_of_lt (hx x h)
  rw [storePoly, List.take_of_length_le hl, h, ht]

end Sys2Proof.Machine
end

