-- ==== Sys2Proof/Laws/State.lean ====
section
/-! SUPPORT. One lemma for each field of State and each named update of it, so that no later proof
unfolds a record update. -/

namespace Sys2Proof.Machine

variable (s : State)

/-! ### `State.writeE` -/

@[simp] theorem State.writeE_cfg (i : EReg) (v : Elem) : (s.writeE i v).cfg = s.cfg := rfl
@[simp] theorem State.writeE_e (i : EReg) (v : Elem) : (s.writeE i v).e = s.e.set i.val (storeElem s.cfg v) i.isLt := rfl
@[simp] theorem State.writeE_r (i : EReg) (v : Elem) : (s.writeE i v).r = s.r := rfl
@[simp] theorem State.writeE_p (i : EReg) (v : Elem) : (s.writeE i v).p = s.p := rfl
@[simp] theorem State.writeE_field (i : EReg) (v : Elem) : (s.writeE i v).field = s.field := rfl
@[simp] theorem State.writeE_code (i : EReg) (v : Elem) : (s.writeE i v).code = s.code := rfl
@[simp] theorem State.writeE_f (i : EReg) (v : Elem) : (s.writeE i v).f = s.f := rfl
@[simp] theorem State.writeE_dst (i : EReg) (v : Elem) : (s.writeE i v).dst = s.dst := rfl
@[simp] theorem State.writeE_doneie (i : EReg) (v : Elem) : (s.writeE i v).doneie = s.doneie := rfl
@[simp] theorem State.writeE_errie (i : EReg) (v : Elem) : (s.writeE i v).errie = s.errie := rfl
@[simp] theorem State.writeE_done (i : EReg) (v : Elem) : (s.writeE i v).done = s.done := rfl
@[simp] theorem State.writeE_err (i : EReg) (v : Elem) : (s.writeE i v).err = s.err := rfl
@[simp] theorem State.writeE_ovr (i : EReg) (v : Elem) : (s.writeE i v).ovr = s.ovr := rfl
@[simp] theorem State.writeE_ecode (i : EReg) (v : Elem) : (s.writeE i v).ecode = s.ecode := rfl
@[simp] theorem State.writeE_errcmd (i : EReg) (v : Elem) : (s.writeE i v).errcmd = s.errcmd := rfl
@[simp] theorem State.writeE_din (i : EReg) (v : Elem) : (s.writeE i v).din = s.din := rfl
@[simp] theorem State.writeE_dout (i : EReg) (v : Elem) : (s.writeE i v).dout = s.dout := rfl
@[simp] theorem State.writeE_phase (i : EReg) (v : Elem) : (s.writeE i v).phase = s.phase := rfl
@[simp] theorem State.writeE_latch (i : EReg) (v : Elem) : (s.writeE i v).latch = s.latch := rfl
@[simp] theorem State.writeE_agenda (i : EReg) (v : Elem) : (s.writeE i v).agenda = s.agenda := rfl
@[simp] theorem State.writeE_rdata (i : EReg) (v : Elem) : (s.writeE i v).rdata = s.rdata := rfl

/-! ### `State.writeR` -/

@[simp] theorem State.writeR_cfg (i : RReg) (v : Word) : (s.writeR i v).cfg = s.cfg := rfl
@[simp] theorem State.writeR_e (i : RReg) (v : Word) : (s.writeR i v).e = s.e := rfl
@[simp] theorem State.writeR_r (i : RReg) (v : Word) : (s.writeR i v).r = s.r.set i.val v i.isLt := rfl
@[simp] theorem State.writeR_p (i : RReg) (v : Word) : (s.writeR i v).p = s.p := rfl
@[simp] theorem State.writeR_field (i : RReg) (v : Word) : (s.writeR i v).field = s.field := rfl
@[simp] theorem State.writeR_code (i : RReg) (v : Word) : (s.writeR i v).code = s.code := rfl
@[simp] theorem State.writeR_f (i : RReg) (v : Word) : (s.writeR i v).f = s.f := rfl
@[simp] theorem State.writeR_dst (i : RReg) (v : Word) : (s.writeR i v).dst = s.dst := rfl
@[simp] theorem State.writeR_doneie (i : RReg) (v : Word) : (s.writeR i v).doneie = s.doneie := rfl
@[simp] theorem State.writeR_errie (i : RReg) (v : Word) : (s.writeR i v).errie = s.errie := rfl
@[simp] theorem State.writeR_done (i : RReg) (v : Word) : (s.writeR i v).done = s.done := rfl
@[simp] theorem State.writeR_err (i : RReg) (v : Word) : (s.writeR i v).err = s.err := rfl
@[simp] theorem State.writeR_ovr (i : RReg) (v : Word) : (s.writeR i v).ovr = s.ovr := rfl
@[simp] theorem State.writeR_ecode (i : RReg) (v : Word) : (s.writeR i v).ecode = s.ecode := rfl
@[simp] theorem State.writeR_errcmd (i : RReg) (v : Word) : (s.writeR i v).errcmd = s.errcmd := rfl
@[simp] theorem State.writeR_din (i : RReg) (v : Word) : (s.writeR i v).din = s.din := rfl
@[simp] theorem State.writeR_dout (i : RReg) (v : Word) : (s.writeR i v).dout = s.dout := rfl
@[simp] theorem State.writeR_phase (i : RReg) (v : Word) : (s.writeR i v).phase = s.phase := rfl
@[simp] theorem State.writeR_latch (i : RReg) (v : Word) : (s.writeR i v).latch = s.latch := rfl
@[simp] theorem State.writeR_agenda (i : RReg) (v : Word) : (s.writeR i v).agenda = s.agenda := rfl
@[simp] theorem State.writeR_rdata (i : RReg) (v : Word) : (s.writeR i v).rdata = s.rdata := rfl

/-! ### `State.writeP` -/

@[simp] theorem State.writeP_cfg (i : PReg) (P : Poly) : (s.writeP i P).cfg = s.cfg := rfl
@[simp] theorem State.writeP_e (i : PReg) (P : Poly) : (s.writeP i P).e = s.e := rfl
@[simp] theorem State.writeP_r (i : PReg) (P : Poly) : (s.writeP i P).r = s.r := rfl
@[simp] theorem State.writeP_p (i : PReg) (P : Poly) : (s.writeP i P).p = s.p.set i.val (storePoly s.cfg P) i.isLt := rfl
@[simp] theorem State.writeP_field (i : PReg) (P : Poly) : (s.writeP i P).field = s.field := rfl
@[simp] theorem State.writeP_code (i : PReg) (P : Poly) : (s.writeP i P).code = s.code := rfl
@[simp] theorem State.writeP_f (i : PReg) (P : Poly) : (s.writeP i P).f = s.f := rfl
@[simp] theorem State.writeP_dst (i : PReg) (P : Poly) : (s.writeP i P).dst = s.dst := rfl
@[simp] theorem State.writeP_doneie (i : PReg) (P : Poly) : (s.writeP i P).doneie = s.doneie := rfl
@[simp] theorem State.writeP_errie (i : PReg) (P : Poly) : (s.writeP i P).errie = s.errie := rfl
@[simp] theorem State.writeP_done (i : PReg) (P : Poly) : (s.writeP i P).done = s.done := rfl
@[simp] theorem State.writeP_err (i : PReg) (P : Poly) : (s.writeP i P).err = s.err := rfl
@[simp] theorem State.writeP_ovr (i : PReg) (P : Poly) : (s.writeP i P).ovr = s.ovr := rfl
@[simp] theorem State.writeP_ecode (i : PReg) (P : Poly) : (s.writeP i P).ecode = s.ecode := rfl
@[simp] theorem State.writeP_errcmd (i : PReg) (P : Poly) : (s.writeP i P).errcmd = s.errcmd := rfl
@[simp] theorem State.writeP_din (i : PReg) (P : Poly) : (s.writeP i P).din = s.din := rfl
@[simp] theorem State.writeP_dout (i : PReg) (P : Poly) : (s.writeP i P).dout = s.dout := rfl
@[simp] theorem State.writeP_phase (i : PReg) (P : Poly) : (s.writeP i P).phase = s.phase := rfl
@[simp] theorem State.writeP_latch (i : PReg) (P : Poly) : (s.writeP i P).latch = s.latch := rfl
@[simp] theorem State.writeP_agenda (i : PReg) (P : Poly) : (s.writeP i P).agenda = s.agenda := rfl
@[simp] theorem State.writeP_rdata (i : PReg) (P : Poly) : (s.writeP i P).rdata = s.rdata := rfl

/-! ### `State.writeDout` -/

@[simp] theorem State.writeDout_cfg (v : Word) : (s.writeDout v).cfg = s.cfg := rfl
@[simp] theorem State.writeDout_e (v : Word) : (s.writeDout v).e = s.e := rfl
@[simp] theorem State.writeDout_r (v : Word) : (s.writeDout v).r = s.r := rfl
@[simp] theorem State.writeDout_p (v : Word) : (s.writeDout v).p = s.p := rfl
@[simp] theorem State.writeDout_field (v : Word) : (s.writeDout v).field = s.field := rfl
@[simp] theorem State.writeDout_code (v : Word) : (s.writeDout v).code = s.code := rfl
@[simp] theorem State.writeDout_f (v : Word) : (s.writeDout v).f = s.f := rfl
@[simp] theorem State.writeDout_dst (v : Word) : (s.writeDout v).dst = s.dst := rfl
@[simp] theorem State.writeDout_doneie (v : Word) : (s.writeDout v).doneie = s.doneie := rfl
@[simp] theorem State.writeDout_errie (v : Word) : (s.writeDout v).errie = s.errie := rfl
@[simp] theorem State.writeDout_done (v : Word) : (s.writeDout v).done = s.done := rfl
@[simp] theorem State.writeDout_err (v : Word) : (s.writeDout v).err = s.err := rfl
@[simp] theorem State.writeDout_ovr (v : Word) : (s.writeDout v).ovr = s.ovr := rfl
@[simp] theorem State.writeDout_ecode (v : Word) : (s.writeDout v).ecode = s.ecode := rfl
@[simp] theorem State.writeDout_errcmd (v : Word) : (s.writeDout v).errcmd = s.errcmd := rfl
@[simp] theorem State.writeDout_din (v : Word) : (s.writeDout v).din = s.din := rfl
@[simp] theorem State.writeDout_dout (v : Word) : (s.writeDout v).dout = v := rfl
@[simp] theorem State.writeDout_phase (v : Word) : (s.writeDout v).phase = s.phase := rfl
@[simp] theorem State.writeDout_latch (v : Word) : (s.writeDout v).latch = s.latch := rfl
@[simp] theorem State.writeDout_agenda (v : Word) : (s.writeDout v).agenda = s.agenda := rfl
@[simp] theorem State.writeDout_rdata (v : Word) : (s.writeDout v).rdata = s.rdata := rfl

/-! ### `State.writeF` -/

@[simp] theorem State.writeF_cfg (v : Bool) : (s.writeF v).cfg = s.cfg := rfl
@[simp] theorem State.writeF_e (v : Bool) : (s.writeF v).e = s.e := rfl
@[simp] theorem State.writeF_r (v : Bool) : (s.writeF v).r = s.r := rfl
@[simp] theorem State.writeF_p (v : Bool) : (s.writeF v).p = s.p := rfl
@[simp] theorem State.writeF_field (v : Bool) : (s.writeF v).field = s.field := rfl
@[simp] theorem State.writeF_code (v : Bool) : (s.writeF v).code = s.code := rfl
@[simp] theorem State.writeF_f (v : Bool) : (s.writeF v).f = v := rfl
@[simp] theorem State.writeF_dst (v : Bool) : (s.writeF v).dst = s.dst := rfl
@[simp] theorem State.writeF_doneie (v : Bool) : (s.writeF v).doneie = s.doneie := rfl
@[simp] theorem State.writeF_errie (v : Bool) : (s.writeF v).errie = s.errie := rfl
@[simp] theorem State.writeF_done (v : Bool) : (s.writeF v).done = s.done := rfl
@[simp] theorem State.writeF_err (v : Bool) : (s.writeF v).err = s.err := rfl
@[simp] theorem State.writeF_ovr (v : Bool) : (s.writeF v).ovr = s.ovr := rfl
@[simp] theorem State.writeF_ecode (v : Bool) : (s.writeF v).ecode = s.ecode := rfl
@[simp] theorem State.writeF_errcmd (v : Bool) : (s.writeF v).errcmd = s.errcmd := rfl
@[simp] theorem State.writeF_din (v : Bool) : (s.writeF v).din = s.din := rfl
@[simp] theorem State.writeF_dout (v : Bool) : (s.writeF v).dout = s.dout := rfl
@[simp] theorem State.writeF_phase (v : Bool) : (s.writeF v).phase = s.phase := rfl
@[simp] theorem State.writeF_latch (v : Bool) : (s.writeF v).latch = s.latch := rfl
@[simp] theorem State.writeF_agenda (v : Bool) : (s.writeF v).agenda = s.agenda := rfl
@[simp] theorem State.writeF_rdata (v : Bool) : (s.writeF v).rdata = s.rdata := rfl

/-! ### `State.writeOutcome` -/

@[simp] theorem State.writeOutcome_cfg (o : DecodeStatus) : (s.writeOutcome o).cfg = s.cfg := rfl
@[simp] theorem State.writeOutcome_e (o : DecodeStatus) : (s.writeOutcome o).e = s.e := rfl
@[simp] theorem State.writeOutcome_r (o : DecodeStatus) : (s.writeOutcome o).r = s.r := rfl
@[simp] theorem State.writeOutcome_p (o : DecodeStatus) : (s.writeOutcome o).p = s.p := rfl
@[simp] theorem State.writeOutcome_field (o : DecodeStatus) : (s.writeOutcome o).field = s.field := rfl
@[simp] theorem State.writeOutcome_code (o : DecodeStatus) : (s.writeOutcome o).code = s.code := rfl
@[simp] theorem State.writeOutcome_f (o : DecodeStatus) : (s.writeOutcome o).f = (o == .uncorrectable) := rfl
@[simp] theorem State.writeOutcome_dst (o : DecodeStatus) : (s.writeOutcome o).dst = o.code := rfl
@[simp] theorem State.writeOutcome_doneie (o : DecodeStatus) : (s.writeOutcome o).doneie = s.doneie := rfl
@[simp] theorem State.writeOutcome_errie (o : DecodeStatus) : (s.writeOutcome o).errie = s.errie := rfl
@[simp] theorem State.writeOutcome_done (o : DecodeStatus) : (s.writeOutcome o).done = s.done := rfl
@[simp] theorem State.writeOutcome_err (o : DecodeStatus) : (s.writeOutcome o).err = s.err := rfl
@[simp] theorem State.writeOutcome_ovr (o : DecodeStatus) : (s.writeOutcome o).ovr = s.ovr := rfl
@[simp] theorem State.writeOutcome_ecode (o : DecodeStatus) : (s.writeOutcome o).ecode = s.ecode := rfl
@[simp] theorem State.writeOutcome_errcmd (o : DecodeStatus) : (s.writeOutcome o).errcmd = s.errcmd := rfl
@[simp] theorem State.writeOutcome_din (o : DecodeStatus) : (s.writeOutcome o).din = s.din := rfl
@[simp] theorem State.writeOutcome_dout (o : DecodeStatus) : (s.writeOutcome o).dout = s.dout := rfl
@[simp] theorem State.writeOutcome_phase (o : DecodeStatus) : (s.writeOutcome o).phase = s.phase := rfl
@[simp] theorem State.writeOutcome_latch (o : DecodeStatus) : (s.writeOutcome o).latch = s.latch := rfl
@[simp] theorem State.writeOutcome_agenda (o : DecodeStatus) : (s.writeOutcome o).agenda = s.agenda := rfl
@[simp] theorem State.writeOutcome_rdata (o : DecodeStatus) : (s.writeOutcome o).rdata = s.rdata := rfl

/-! ### `State.complete` -/

@[simp] theorem State.complete_cfg : (s.complete).cfg = s.cfg := rfl
@[simp] theorem State.complete_e : (s.complete).e = s.e := rfl
@[simp] theorem State.complete_r : (s.complete).r = s.r := rfl
@[simp] theorem State.complete_p : (s.complete).p = s.p := rfl
@[simp] theorem State.complete_field : (s.complete).field = s.field := rfl
@[simp] theorem State.complete_code : (s.complete).code = s.code := rfl
@[simp] theorem State.complete_f : (s.complete).f = s.f := rfl
@[simp] theorem State.complete_dst : (s.complete).dst = s.dst := rfl
@[simp] theorem State.complete_doneie : (s.complete).doneie = s.doneie := rfl
@[simp] theorem State.complete_errie : (s.complete).errie = s.errie := rfl
@[simp] theorem State.complete_done : (s.complete).done = true := rfl
@[simp] theorem State.complete_err : (s.complete).err = s.err := rfl
@[simp] theorem State.complete_ovr : (s.complete).ovr = s.ovr := rfl
@[simp] theorem State.complete_ecode : (s.complete).ecode = s.ecode := rfl
@[simp] theorem State.complete_errcmd : (s.complete).errcmd = s.errcmd := rfl
@[simp] theorem State.complete_din : (s.complete).din = s.din := rfl
@[simp] theorem State.complete_dout : (s.complete).dout = s.dout := rfl
@[simp] theorem State.complete_phase : (s.complete).phase = .idle := rfl
@[simp] theorem State.complete_latch : (s.complete).latch = s.latch := rfl
@[simp] theorem State.complete_agenda : (s.complete).agenda = s.agenda := rfl
@[simp] theorem State.complete_rdata : (s.complete).rdata = s.rdata := rfl

/-! ### `State.errorCommit` -/

@[simp] theorem State.errorCommit_cfg (c : ErrorCode) : (s.errorCommit c).cfg = s.cfg := rfl
@[simp] theorem State.errorCommit_e (c : ErrorCode) : (s.errorCommit c).e = s.e := rfl
@[simp] theorem State.errorCommit_r (c : ErrorCode) : (s.errorCommit c).r = s.r := rfl
@[simp] theorem State.errorCommit_p (c : ErrorCode) : (s.errorCommit c).p = s.p := rfl
@[simp] theorem State.errorCommit_field (c : ErrorCode) : (s.errorCommit c).field = s.field := rfl
@[simp] theorem State.errorCommit_code (c : ErrorCode) : (s.errorCommit c).code = s.code := rfl
@[simp] theorem State.errorCommit_f (c : ErrorCode) : (s.errorCommit c).f = s.f := rfl
@[simp] theorem State.errorCommit_dst (c : ErrorCode) : (s.errorCommit c).dst = s.dst := rfl
@[simp] theorem State.errorCommit_doneie (c : ErrorCode) : (s.errorCommit c).doneie = s.doneie := rfl
@[simp] theorem State.errorCommit_errie (c : ErrorCode) : (s.errorCommit c).errie = s.errie := rfl
@[simp] theorem State.errorCommit_done (c : ErrorCode) : (s.errorCommit c).done = true := rfl
@[simp] theorem State.errorCommit_err (c : ErrorCode) : (s.errorCommit c).err = true := rfl
@[simp] theorem State.errorCommit_ovr (c : ErrorCode) : (s.errorCommit c).ovr = s.ovr := rfl
@[simp] theorem State.errorCommit_ecode (c : ErrorCode) : (s.errorCommit c).ecode = c.code := rfl
@[simp] theorem State.errorCommit_errcmd (c : ErrorCode) : (s.errorCommit c).errcmd = s.latch := rfl
@[simp] theorem State.errorCommit_din (c : ErrorCode) : (s.errorCommit c).din = s.din := rfl
@[simp] theorem State.errorCommit_dout (c : ErrorCode) : (s.errorCommit c).dout = s.dout := rfl
@[simp] theorem State.errorCommit_phase (c : ErrorCode) : (s.errorCommit c).phase = .idle := rfl
@[simp] theorem State.errorCommit_latch (c : ErrorCode) : (s.errorCommit c).latch = s.latch := rfl
@[simp] theorem State.errorCommit_agenda (c : ErrorCode) : (s.errorCommit c).agenda = s.agenda := rfl
@[simp] theorem State.errorCommit_rdata (c : ErrorCode) : (s.errorCommit c).rdata = s.rdata := rfl

/-! ### `State.accept` -/

@[simp] theorem State.accept_cfg (w : Word) : (s.accept w).cfg = s.cfg := rfl
@[simp] theorem State.accept_e (w : Word) : (s.accept w).e = s.e := rfl
@[simp] theorem State.accept_r (w : Word) : (s.accept w).r = s.r := rfl
@[simp] theorem State.accept_p (w : Word) : (s.accept w).p = s.p := rfl
@[simp] theorem State.accept_field (w : Word) : (s.accept w).field = s.field := rfl
@[simp] theorem State.accept_code (w : Word) : (s.accept w).code = s.code := rfl
@[simp] theorem State.accept_f (w : Word) : (s.accept w).f = s.f := rfl
@[simp] theorem State.accept_dst (w : Word) : (s.accept w).dst = s.dst := rfl
@[simp] theorem State.accept_doneie (w : Word) : (s.accept w).doneie = s.doneie := rfl
@[simp] theorem State.accept_errie (w : Word) : (s.accept w).errie = s.errie := rfl
@[simp] theorem State.accept_done (w : Word) : (s.accept w).done = false := rfl
@[simp] theorem State.accept_err (w : Word) : (s.accept w).err = s.err := rfl
@[simp] theorem State.accept_ovr (w : Word) : (s.accept w).ovr = s.ovr := rfl
@[simp] theorem State.accept_ecode (w : Word) : (s.accept w).ecode = s.ecode := rfl
@[simp] theorem State.accept_errcmd (w : Word) : (s.accept w).errcmd = s.errcmd := rfl
@[simp] theorem State.accept_din (w : Word) : (s.accept w).din = s.din := rfl
@[simp] theorem State.accept_dout (w : Word) : (s.accept w).dout = s.dout := rfl
@[simp] theorem State.accept_phase (w : Word) : (s.accept w).phase = .executing := rfl
@[simp] theorem State.accept_latch (w : Word) : (s.accept w).latch = w := rfl
@[simp] theorem State.accept_agenda (w : Word) : (s.accept w).agenda = s.agenda := rfl
@[simp] theorem State.accept_rdata (w : Word) : (s.accept w).rdata = s.rdata := rfl

/-! ### `State.drop` -/

@[simp] theorem State.drop_cfg : (s.drop).cfg = s.cfg := rfl
@[simp] theorem State.drop_e : (s.drop).e = s.e := rfl
@[simp] theorem State.drop_r : (s.drop).r = s.r := rfl
@[simp] theorem State.drop_p : (s.drop).p = s.p := rfl
@[simp] theorem State.drop_field : (s.drop).field = s.field := rfl
@[simp] theorem State.drop_code : (s.drop).code = s.code := rfl
@[simp] theorem State.drop_f : (s.drop).f = s.f := rfl
@[simp] theorem State.drop_dst : (s.drop).dst = s.dst := rfl
@[simp] theorem State.drop_doneie : (s.drop).doneie = s.doneie := rfl
@[simp] theorem State.drop_errie : (s.drop).errie = s.errie := rfl
@[simp] theorem State.drop_done : (s.drop).done = s.done := rfl
@[simp] theorem State.drop_err : (s.drop).err = s.err := rfl
@[simp] theorem State.drop_ovr : (s.drop).ovr = true := rfl
@[simp] theorem State.drop_ecode : (s.drop).ecode = s.ecode := rfl
@[simp] theorem State.drop_errcmd : (s.drop).errcmd = s.errcmd := rfl
@[simp] theorem State.drop_din : (s.drop).din = s.din := rfl
@[simp] theorem State.drop_dout : (s.drop).dout = s.dout := rfl
@[simp] theorem State.drop_phase : (s.drop).phase = s.phase := rfl
@[simp] theorem State.drop_latch : (s.drop).latch = s.latch := rfl
@[simp] theorem State.drop_agenda : (s.drop).agenda = s.agenda := rfl
@[simp] theorem State.drop_rdata : (s.drop).rdata = s.rdata := rfl

/-! ### `State.resetEngine` -/

@[simp] theorem State.resetEngine_cfg : (s.resetEngine).cfg = s.cfg := rfl
@[simp] theorem State.resetEngine_e : (s.resetEngine).e = Vector.replicate 16 0 := rfl
@[simp] theorem State.resetEngine_r : (s.resetEngine).r = Vector.replicate 16 0 := rfl
@[simp] theorem State.resetEngine_p : (s.resetEngine).p = Vector.replicate 8 [] := rfl
@[simp] theorem State.resetEngine_field : (s.resetEngine).field = FieldState.reset := rfl
@[simp] theorem State.resetEngine_code : (s.resetEngine).code = CodeState.reset := rfl
@[simp] theorem State.resetEngine_f : (s.resetEngine).f = false := rfl
@[simp] theorem State.resetEngine_dst : (s.resetEngine).dst = 0 := rfl
@[simp] theorem State.resetEngine_doneie : (s.resetEngine).doneie = false := rfl
@[simp] theorem State.resetEngine_errie : (s.resetEngine).errie = false := rfl
@[simp] theorem State.resetEngine_done : (s.resetEngine).done = false := rfl
@[simp] theorem State.resetEngine_err : (s.resetEngine).err = false := rfl
@[simp] theorem State.resetEngine_ovr : (s.resetEngine).ovr = false := rfl
@[simp] theorem State.resetEngine_ecode : (s.resetEngine).ecode = 0 := rfl
@[simp] theorem State.resetEngine_errcmd : (s.resetEngine).errcmd = 0 := rfl
@[simp] theorem State.resetEngine_din : (s.resetEngine).din = 0 := rfl
@[simp] theorem State.resetEngine_dout : (s.resetEngine).dout = 0 := rfl
@[simp] theorem State.resetEngine_phase : (s.resetEngine).phase = .resetClear := rfl
@[simp] theorem State.resetEngine_latch : (s.resetEngine).latch = 0 := rfl
@[simp] theorem State.resetEngine_agenda : (s.resetEngine).agenda = s.agenda := rfl
@[simp] theorem State.resetEngine_rdata : (s.resetEngine).rdata = s.rdata := rfl

/-! ### `State.endClear` -/

@[simp] theorem State.endClear_cfg : (s.endClear).cfg = s.cfg := rfl
@[simp] theorem State.endClear_e : (s.endClear).e = Vector.replicate 16 0 := rfl
@[simp] theorem State.endClear_r : (s.endClear).r = Vector.replicate 16 0 := rfl
@[simp] theorem State.endClear_p : (s.endClear).p = Vector.replicate 8 [] := rfl
@[simp] theorem State.endClear_field : (s.endClear).field = { s.field with alog := [], log := [] } := rfl
@[simp] theorem State.endClear_code : (s.endClear).code = { s.code with gen := [] } := rfl
@[simp] theorem State.endClear_f : (s.endClear).f = s.f := rfl
@[simp] theorem State.endClear_dst : (s.endClear).dst = s.dst := rfl
@[simp] theorem State.endClear_doneie : (s.endClear).doneie = s.doneie := rfl
@[simp] theorem State.endClear_errie : (s.endClear).errie = s.errie := rfl
@[simp] theorem State.endClear_done : (s.endClear).done = s.done := rfl
@[simp] theorem State.endClear_err : (s.endClear).err = s.err := rfl
@[simp] theorem State.endClear_ovr : (s.endClear).ovr = s.ovr := rfl
@[simp] theorem State.endClear_ecode : (s.endClear).ecode = s.ecode := rfl
@[simp] theorem State.endClear_errcmd : (s.endClear).errcmd = s.errcmd := rfl
@[simp] theorem State.endClear_din : (s.endClear).din = s.din := rfl
@[simp] theorem State.endClear_dout : (s.endClear).dout = s.dout := rfl
@[simp] theorem State.endClear_phase : (s.endClear).phase = .idle := rfl
@[simp] theorem State.endClear_latch : (s.endClear).latch = s.latch := rfl
@[simp] theorem State.endClear_agenda : (s.endClear).agenda = s.agenda := rfl
@[simp] theorem State.endClear_rdata : (s.endClear).rdata = s.rdata := rfl

end Sys2Proof.Machine
end

