-- ==== Sys2Proof/Laws/Ops.lean ====
section
/-! SUPPORT. What each shared operation can do, said once: the register accessors against the writes, and
the outcomes of the commits and gates. -/

namespace Sys2Proof.Machine

variable (s : State)

/-! ### Reads after writes -/

@[simp] theorem readE_writeE (d i : EReg) (v : Elem) :
    (s.writeE d v).readE i = if i = d then storeElem s.cfg v else s.readE i := by
  simp only [State.readE, State.writeE, Vector.getElem_set]
  by_cases h : i = d
  · simp [h]
  · rw [if_neg h, if_neg fun hv => h (Fin.ext hv.symm)]

@[simp] theorem readR_writeR (d i : RReg) (v : Word) :
    (s.writeR d v).readR i = if i = d then v else s.readR i := by
  simp only [State.readR, State.writeR, Vector.getElem_set]
  by_cases h : i = d
  · simp [h]
  · rw [if_neg h, if_neg fun hv => h (Fin.ext hv.symm)]

@[simp] theorem readP_writeP (d i : PReg) (P : Poly) :
    (s.writeP d P).readP i = if i = d then storePoly s.cfg P else s.readP i := by
  simp only [State.readP, State.writeP, Vector.getElem_set]
  by_cases h : i = d
  · simp [h]
  · rw [if_neg h, if_neg fun hv => h (Fin.ext hv.symm)]

/-- A register file read depends on its field alone. -/
theorem readE_congr {s t : State} (h : t.e = s.e) (i : EReg) : t.readE i = s.readE i := by
  simp [State.readE, h]

theorem readR_congr {s t : State} (h : t.r = s.r) (i : RReg) : t.readR i = s.readR i := by
  simp [State.readR, h]

theorem readP_congr {s t : State} (h : t.p = s.p) (i : PReg) : t.readP i = s.readP i := by
  simp [State.readP, h]

/-! ### Commits and gates -/

@[simp] theorem finish_eq : finish s = .next s.complete := rfl

@[simp] theorem raise_eq (c : ErrorCode) : raise c s = .next (s.errorCommit c) := rfl

/-- The FV gate answers with the command's own answer, or with the FieldNotBuilt commit. -/
theorem needField_cases {k : Unit → Result} {x : Result} (h : needField s k = x) :
    (s.field.fv = true ∧ k () = x) ∨
    (s.field.fv = false ∧ x = .next (s.errorCommit .fieldNotBuilt)) := by
  rw [needField] at h
  split at h
  · exact .inl ⟨‹_›, h⟩
  · exact .inr ⟨Bool.eq_false_of_not_eq_true ‹_›, h.symm⟩

/-- The CV gate answers with the command's own answer, or with the CodeNotBuilt commit. -/
theorem needCode_cases {k : Unit → Result} {x : Result} (h : needCode s k = x) :
    (s.code.cv = true ∧ k () = x) ∨
    (s.code.cv = false ∧ x = .next (s.errorCommit .codeNotBuilt)) := by
  rw [needCode] at h
  split at h
  · exact .inl ⟨‹_›, h⟩
  · exact .inr ⟨Bool.eq_false_of_not_eq_true ‹_›, h.symm⟩

/-- The D ≠ C gate answers with the command's own answer, or with the IllegalInstruction commit. -/
theorem needDistinct_cases {d c : PReg} {k : Unit → Result} {x : Result}
    (h : needDistinct d c s k = x) :
    (d ≠ c ∧ k () = x) ∨ (d = c ∧ x = .next (s.errorCommit .illegalInstruction)) := by
  rw [needDistinct] at h
  split at h
  · exact .inr ⟨‹_›, h.symm⟩
  · exact .inl ⟨‹_›, h⟩

/-- The index gate answers with the command's own answer, or with the IndexOutOfRange commit. -/
theorem needIndex_cases {ok : Bool} {k : Unit → Result} {x : Result} (h : needIndex ok s k = x) :
    (ok = true ∧ k () = x) ∨ (ok = false ∧ x = .next (s.errorCommit .indexOutOfRange)) := by
  rw [needIndex] at h
  split at h
  · exact .inl ⟨‹_›, h⟩
  · exact .inr ⟨Bool.eq_false_of_not_eq_true ‹_›, h.symm⟩

/-- A product or lcm is written, or overflows. -/
theorem finishIfFits_cases {d : PReg} {g : Int} {P : Poly} {x : Result}
    (h : finishIfFits s d g P = x) :
    (g < s.cfg.polyLen ∧ x = .next (s.writeP d P).complete) ∨
    (g ≥ s.cfg.polyLen ∧ x = .next (s.errorCommit .polynomialOverflow)) := by
  rw [finishIfFits] at h
  split at h
  · exact .inr ⟨‹_›, h.symm⟩
  · exact .inl ⟨by omega, h.symm⟩

@[simp] theorem needField_of_fv {s : State} {k : Unit → Result} (h : s.field.fv = true) :
    needField s k = k () := if_pos h

@[simp] theorem needCode_of_cv {s : State} {k : Unit → Result} (h : s.code.cv = true) :
    needCode s k = k () := if_pos h

@[simp] theorem needDistinct_of_ne {s : State} {d c : PReg} {k : Unit → Result} (h : d ≠ c) :
    needDistinct d c s k = k () := if_neg h

@[simp] theorem needIndex_of_true {s : State} {ok : Bool} {k : Unit → Result} (h : ok = true) :
    needIndex ok s k = k () := if_pos h

/-! ### The latch and the decode outcome -/

/-- CTRL.CLRERR: the latch is cleared where it is set, else nothing changes. -/
theorem clearError_cases :
    (s.err = true ∧ s.clearError = { s with err := false, ecode := 0, errcmd := 0 }) ∨
    (s.err = false ∧ s.clearError = s) := by
  rw [State.clearError]
  split
  · exact .inl ⟨‹_›, rfl⟩
  · exact .inr ⟨Bool.eq_false_of_not_eq_true ‹_›, rfl⟩

/-- No outcome is coded 3. -/
theorem decodeStatus_code_ne (o : DecodeStatus) : o.code ≠ 3 := by
  cases o <;> decide

end Sys2Proof.Machine
end

