-- ==== Sys2Proof/Laws/PerInstr.lean ====
section
/-! SUPPORT. Facts about every command, one lemma for each constructor: the word of a command holds its
opcode and its operands in the fields of 30_encoding.md R91. -/

namespace Sys2Proof.Laws.EncodeFields

/-- The six fields of the command's word are its opcode and its operands. -/
def Statement (i : Instr) : Prop :=
  opField (encode i) = i.op.format.code ∧
  (regField (encode i) .D).val = i.operands.d ∧ (regField (encode i) .A).val = i.operands.a ∧
  (regField (encode i) .B).val = i.operands.b ∧ (regField (encode i) .C).val = i.operands.c ∧
  (immField (encode i)).toNat = i.operands.imm

theorem of_bounds (i : Instr) : Statement i := by
  obtain ⟨hd, ha, hb, hc, hi⟩ := operands_bounds i
  have ho := format_code_lt i.op
  exact ⟨opField_assemble ho hd ha hb hc hi, regField_D_assemble ho hd ha hb hc hi,
    regField_A_assemble ho hd ha hb hc hi, regField_B_assemble ho hd ha hb hc hi,
    regField_C_assemble ho hd ha hb hc hi, immField_assemble ho hd ha hb hc hi⟩

theorem nop : Statement (.nop) := of_bounds _
theorem lde (d : EReg) : Statement (.lde d) := of_bounds _
theorem ste (a : EReg) : Statement (.ste a) := of_bounds _
theorem ldr (d : RReg) : Statement (.ldr d) := of_bounds _
theorem str (a : RReg) : Statement (.str a) := of_bounds _
theorem li (d : RReg) (imm : BitVec 10) : Statement (.li d imm) := of_bounds _
theorem emov (d a : EReg) : Statement (.emov d a) := of_bounds _
theorem rmov (d a : RReg) : Statement (.rmov d a) := of_bounds _
theorem pmov (d a : PReg) : Statement (.pmov d a) := of_bounds _
theorem pclr (d : PReg) : Statement (.pclr d) := of_bounds _
theorem ldpc (d : PReg) (a : RReg) : Statement (.ldpc d a) := of_bounds _
theorem stpc (a : PReg) (b : RReg) : Statement (.stpc a b) := of_bounds _
theorem ldpb (d : PReg) (a : RReg) : Statement (.ldpb d a) := of_bounds _
theorem stpb (a : PReg) (b : RReg) : Statement (.stpb a b) := of_bounds _
theorem pget (d : EReg) (a : PReg) (b : RReg) : Statement (.pget d a b) := of_bounds _
theorem pset (d : PReg) (a : EReg) (b : RReg) : Statement (.pset d a b) := of_bounds _
theorem pdeg (d : RReg) (a : PReg) : Statement (.pdeg d a) := of_bounds _
theorem buildf (a b : RReg) : Statement (.buildf a b) := of_bounds _
theorem fadd (d a b : EReg) : Statement (.fadd d a b) := of_bounds _
theorem fmul (d a b : EReg) : Statement (.fmul d a b) := of_bounds _
theorem finv (d a : EReg) : Statement (.finv d a) := of_bounds _
theorem fpow (d a : EReg) (b : RReg) : Statement (.fpow d a b) := of_bounds _
theorem padd2 (d a b : PReg) : Statement (.padd2 d a b) := of_bounds _
theorem pmul2 (d a b : PReg) : Statement (.pmul2 d a b) := of_bounds _
theorem pdiv2 (d c a b : PReg) : Statement (.pdiv2 d c a b) := of_bounds _
theorem peval2 (d : EReg) (a : PReg) (b : EReg) : Statement (.peval2 d a b) := of_bounds _
theorem pgcd2 (d a b : PReg) : Statement (.pgcd2 d a b) := of_bounds _
theorem plcm2 (d a b : PReg) : Statement (.plcm2 d a b) := of_bounds _
theorem paddm (d a b : PReg) : Statement (.paddm d a b) := of_bounds _
theorem pmulm (d a b : PReg) : Statement (.pmulm d a b) := of_bounds _
theorem pdivm (d c a b : PReg) : Statement (.pdivm d c a b) := of_bounds _
theorem pevalm (d : EReg) (a : PReg) (b : EReg) : Statement (.pevalm d a b) := of_bounds _
theorem pgcdm (d a b : PReg) : Statement (.pgcdm d a b) := of_bounds _
theorem plcmm (d a b : PReg) : Statement (.plcmm d a b) := of_bounds _
theorem minpoly (d : PReg) (a : EReg) : Statement (.minpoly d a) := of_bounds _
theorem genb (d : PReg) (a : RReg) : Statement (.genb d a) := of_bounds _
theorem buildc (a b c : RReg) (nonsys : Bool) : Statement (.buildc a b c nonsys) := of_bounds _
theorem genrd (d : PReg) : Statement (.genrd d) := of_bounds _
theorem enc (d a : PReg) (b : RReg) : Statement (.enc d a b) := of_bounds _
theorem syn (d a : PReg) (b : RReg) : Statement (.syn d a b) := of_bounds _
theorem pgz (d : PReg) (c : RReg) (a : PReg) : Statement (.pgz d c a) := of_bounds _
theorem chien (d : PReg) (c : RReg) (a : PReg) : Statement (.chien d c a) := of_bounds _
theorem corr (d c a b : PReg) : Statement (.corr d c a b) := of_bounds _
theorem dec (d c a : PReg) (b : RReg) : Statement (.dec d c a b) := of_bounds _

end Sys2Proof.Laws.EncodeFields
end

