-- ==== Sys2Proof/Laws/Step.lean ====
section
/-! SUPPORT. What one step can do: which event it takes, and what each event can answer. -/

namespace Sys2Proof.Machine

/-- With no event left a step is the engine's turn. -/
theorem step_of_nil {s : State} (h : s.agenda = []) : step s = engineTurn s := by
  simp [step, h]

/-- With an event left a step is that event. -/
theorem step_of_cons {s : State} {ev : BusEvent} {rest : List BusEvent} (h : s.agenda = ev :: rest) :
    step s = busEvent ev { s with agenda := rest } := by
  simp [step, h]

theorem engineTurn_of_idle {s : State} (h : s.phase = .idle) : engineTurn s = .next s := by
  simp [engineTurn, h]

theorem engineTurn_of_clear {s : State} (h : s.phase = .resetClear) :
    engineTurn s = .next s.endClear := by
  simp [engineTurn, h]

theorem engineTurn_of_executing {s : State} (h : s.phase = .executing) :
    engineTurn s = runLatched s := by
  simp [engineTurn, h]

theorem runLatched_of_ok {s : State} {i : Instr} (h : decode s.latch = .ok i) :
    runLatched s = exec i s := by
  simp [runLatched, h]

theorem runLatched_of_error {s : State} {why : Illegal} (h : decode s.latch = .error why) :
    runLatched s = .next (s.errorCommit .illegalInstruction) := by
  simp [runLatched, h]

/-- A host read answers a state that differs in the read word alone. -/
theorem hostRead_next {addr bytes : Nat} {s t : State} (h : hostRead addr bytes s = .next t) :
    inWindow s.cfg addr = true ∧ ∃ v, t = { s with rdata := v } := by
  rw [hostRead] at h
  split at h
  · cases h
    exact ⟨‹_›, _, rfl⟩
  · cases h

/-- A host write that answers a state left it alone or wrote a window register. -/
theorem hostWrite_next {addr bytes : Nat} {v : Word} {s t : State}
    (h : hostWrite addr bytes v s = .next t) :
    inWindow s.cfg addr = true ∧
    (t = s ∨ t = s.writeReg (WindowReg.ofOffset (addr - s.cfg.engineBase)) v) := by
  rw [hostWrite] at h
  split at h
  · split at h
    · cases h
      exact ⟨‹_›, .inr rfl⟩
    · cases h
      exact ⟨‹_›, .inl rfl⟩
  · cases h

/-- A window write leaves the state alone, or is one of the four writes that act. -/
theorem writeReg_cases (s : State) (x : WindowReg) (v : Word) :
    s.writeReg x v = s ∨ s.writeReg x v = s.writeCtrl v ∨ s.writeReg x v = s.writeStatus v ∨
    s.writeReg x v = s.writeCmd v ∨ s.writeReg x v = s.writeDin v := by
  cases x <;> simp [State.writeReg]

/-- A CMD write is accepted or dropped. -/
theorem writeCmd_cases (s : State) (w : Word) :
    (s.phase = .idle ∧ s.err = false ∧ s.writeCmd w = s.accept w) ∨ s.writeCmd w = s.drop := by
  rw [State.writeCmd]
  split
  · exact .inl ⟨‹_ ∧ _›.1, ‹_ ∧ _›.2, rfl⟩
  · exact .inr rfl

/-- A DIN write replaces DIN or is dropped. -/
theorem writeDin_cases (s : State) (v : Word) :
    (s.phase = .idle ∧ s.writeDin v = { s with din := v }) ∨ s.writeDin v = s.drop := by
  rw [State.writeDin]
  split
  · exact .inl ⟨‹_›, rfl⟩
  · exact .inr rfl

end Sys2Proof.Machine
end

