-- ==== Sys2Proof/Tests/Slice0.lean ====
section
/-! SUPPORT. Small tests: ill-formed terms, words written out from the spec, one step per command on a small
state with the results of 95_test_vectors.md, and a witness for the hypotheses of every statement. -/

namespace Sys2Proof.Tests

set_option Elab.async false

open Sys2Proof.Machine Sys2Proof.Spec

/-! ### A small state -/

/-- GF(16), p = 0x13, with the tables of 95_test_vectors.md §2.1. -/
def gf16 : FieldState :=
  { fv := true, m := 4, poly := 0x13
    alog := [1, 2, 4, 8, 3, 6, 0xC, 0xB, 5, 0xA, 7, 0xE, 0xF, 0xD, 9]
    log := [0, 0, 1, 4, 2, 8, 5, 10, 3, 14, 9, 7, 6, 13, 11, 12] }

/-- The (15, 7, 2) code with g = 0x1D1 (95_test_vectors.md §4). -/
def bch : CodeState :=
  { cv := true, n := 15, k := 7, t := 2, nonsys := false, gen := [1, 0, 0, 0, 1, 0, 1, 1, 1], genDeg := 8 }

/-- Field and code built, a command latched and executing, and registers with the operands of
95_test_vectors.md §2.3, §3.2, §5. -/
def built : State :=
  { State.reset with
    phase := .executing
    field := gf16
    code := bch
    e := #v[0, 7, 0xB, 0x17, 8, 9, 2, 1, 0x10, 3, 6, 0, 0, 0, 0, 0]
    r := #v[0, 4, 0x13, 15, 7, 2, 0xFFFFFFFF, 1, 256, 8, 0x80000000, 0x1F, 255, 0, 0, 0]
    p := #v[[1, 0, 1, 1], [0, 1, 0, 0, 0, 1, 0, 0, 1, 0, 0, 1], [8, 1], [6, 1], [],
            [0, 15, 10, 11, 8], [1, 15, 13], [0, 0, 0, 1, 0, 0, 0, 0, 0, 0, 1]]
    din := 0x1FF }

/-- The same with the GF(2) operands of 95_test_vectors.md §3.1: 0x1D1, 0x13, 0x7, x^255, 0, 0x79, 0x6 and the
codeword 0x0D2A. -/
def bits2 : State :=
  { built with
    p := #v[[1, 0, 0, 0, 1, 0, 1, 1, 1], [1, 1, 0, 0, 1], [1, 1, 1], List.replicate 255 0 ++ [1], [],
            [1, 0, 0, 1, 1, 1, 1], [0, 1, 1], [0, 1, 0, 1, 0, 1, 0, 0, 1, 0, 1, 1]] }

/-- A command executing with neither field nor code built. -/
def bare : State := { State.reset with phase := .executing }

/-- IDLE after a completed command, with field and code. -/
def idle : State := { built with phase := .idle, done := true }

/-- IDLE with a latched error. -/
def latched : State := { idle with err := true, ecode := 0x03, errcmd := 0x6D400000 }

/-- The (14, 6, 2), (15, 5, 2) and non-systematic codes of 95_test_vectors.md §4. -/
def short : State := { built with code := { bch with n := 14, k := 6 } }

@[inherit_doc short] def loose : State := { built with code := { bch with k := 5 } }

@[inherit_doc short] def nonsys : State := { built with code := { bch with nonsys := true } }

/-- The state a command leaves. -/
def run (i : Instr) (s : State) : State :=
  match exec i s with
  | .next t => t
  | .fault _ | .refused _ => s

/-- The command answers a next state. -/
def goesOn (i : Instr) (s : State) : Bool :=
  match exec i s with
  | .next _ => true
  | .fault _ | .refused _ => false

theorem exec_run {i : Instr} {s : State} (h : goesOn i s = true) : exec i s = .next (run i s) := by
  unfold goesOn at h
  unfold run
  split <;> simp_all

/-- The state a step leaves. -/
def after (s : State) : State :=
  match step s with
  | .next t => t
  | .fault _ | .refused _ => s

/-! ### The states meet the invariant -/

theorem gf16_built : fieldBuilt Config.build gf16 := by decide +kernel

theorem bch_built : codeBuilt Config.build gf16 bch := by decide +kernel

theorem nonsys_built : codeBuilt Config.build gf16 { bch with nonsys := true } := by decide +kernel

theorem polyFits_of {c : Params} {P : Poly} (h : (decide (Poly.trim P = P) &&
    decide (P.length ≤ c.polyLen) && P.all (fun x => decide (x.toNat < 2 ^ c.mMax))) = true) :
    polyFits c P := by
  simpa [and_assoc] using h

theorem bch_gen_fits : polyFits Config.build bch.gen := polyFits_of (by decide)

theorem built_polys (i : PReg) : polyFits Config.build (built.readP i) :=
  polyFits_of (by revert i; decide +kernel)

theorem bits2_polys (i : PReg) : polyFits Config.build (bits2.readP i) :=
  polyFits_of (by revert i; decide +kernel)

/-- The invariant of the states here that hold the field and a code in phase EXECUTING. -/
theorem inv_of_executing {s : State} (hc : s.cfg = Config.build) (hf : s.field = gf16)
    (hC : codeBuilt Config.build gf16 s.code) (hv : s.code.cv = true)
    (hg : polyFits Config.build s.code.gen) (he : ∀ i : EReg, (s.readE i).toNat < 2 ^ 8)
    (hp : ∀ i : PReg, polyFits Config.build (s.readP i)) (h0 : s.dst = 0) (h1 : s.err = false)
    (h2 : s.ecode = 0) (h3 : s.errcmd = 0) (h4 : s.done = false) (h5 : s.phase = .executing) : s.Inv where
  cfgValid := by rw [hc]; decide
  elemsFit := by rw [hc]; exact he
  polysFit := by rw [hc]; exact hp
  genFits := by rw [hc]; exact hg
  fieldOn := fun _ => by rw [hc, hf]; exact gf16_built
  fieldOff := fun h => by rw [hf] at h; cases h
  codeOn := fun _ => by rw [hc, hf]; exact ⟨rfl, hC⟩
  codeOff := fun h => by rw [hv] at h; cases h
  dstLegal := by rw [h0]; decide
  errOff := fun _ => ⟨h2, h3⟩
  errOn := fun h => by rw [h1] at h; cases h
  busyNotDone := fun _ => h4
  clearing := fun h => by rw [h5] at h; cases h

theorem built_inv : built.Inv :=
  inv_of_executing rfl rfl bch_built rfl bch_gen_fits (by decide) built_polys rfl rfl rfl rfl rfl rfl

theorem bits2_inv : bits2.Inv :=
  inv_of_executing rfl rfl bch_built rfl bch_gen_fits (by decide) bits2_polys rfl rfl rfl rfl rfl rfl

theorem nonsys_inv : nonsys.Inv :=
  inv_of_executing rfl rfl nonsys_built rfl bch_gen_fits (by decide) built_polys rfl rfl rfl rfl rfl rfl

/-- A latched error, over a state of the invariant. -/
theorem inv_latched {s : State} (h : s.Inv) (a : List BusEvent) :
    State.Inv { s with phase := .idle, done := true, err := true, ecode := 0x03, errcmd := 0x6D400000,
                       agenda := a } where
  cfgValid := h.cfgValid
  elemsFit := h.elemsFit
  polysFit := h.polysFit
  genFits := h.genFits
  fieldOn := h.fieldOn
  fieldOff := h.fieldOff
  codeOn := h.codeOn
  codeOff := h.codeOff
  dstLegal := h.dstLegal
  errOff := fun h => by cases h
  errOn := fun _ => ⟨rfl, by change (0x03 : BitVec 8) ∈ legalCodes; decide⟩
  busyNotDone := fun h => absurd rfl h
  clearing := fun h => by cases h

theorem bare_inv : bare.Inv where
  cfgValid := by decide
  elemsFit := by decide
  polysFit := fun i => polyFits_of (by revert i; decide)
  genFits := polyFits_of (by decide)
  fieldOn := fun h => by cases h
  fieldOff := fun _ => by decide
  codeOn := fun h => by cases h
  codeOff := fun _ => rfl
  dstLegal := by decide
  errOff := fun _ => by decide
  errOn := fun h => by cases h
  busyNotDone := fun _ => rfl
  clearing := fun h => by cases h

/-! ### Well-formedness: the one check, refused for each command it stands for (30_encoding.md R99) -/

theorem test_illFormed_pdiv2 : (Instr.pdiv2 2 2 0 1).wellFormed = false := by decide
theorem test_illFormed_pdivm : (Instr.pdivm 2 2 0 1).wellFormed = false := by decide
theorem test_illFormed_corr : (Instr.corr 3 3 2 7).wellFormed = false := by decide
theorem test_illFormed_dec : (Instr.dec 3 3 2 3).wellFormed = false := by decide

/-! ### Decoding -/

/-- Words written out from 30_encoding.md R91, R95. -/
theorem test_decode_transfer :
    decode 0x00000000 = .ok .nop ∧
    decode 0x07400000 = .ok (.lde 13) ∧
    decode 0x082C0000 = .ok (.ste 11) ∧
    decode 0x0F800000 = .ok (.ldr 14) ∧
    decode 0x10240000 = .ok (.str 9) ∧
    decode 0x178002A5 = .ok (.li 14 0x2A5) ∧
    decode 0x1B6C0000 = .ok (.emov 13 11) ∧
    decode 0x1FA40000 = .ok (.rmov 14 9) ∧
    decode 0x21580000 = .ok (.pmov 5 6) ∧
    decode 0x25400000 = .ok (.pclr 5) ∧
    decode 0x29640000 = .ok (.ldpc 5 9) ∧
    decode 0x2C1B0000 = .ok (.stpc 6 12) ∧
    decode 0x31640000 = .ok (.ldpb 5 9) ∧
    decode 0x341B0000 = .ok (.stpb 6 12) ∧
    decode 0x3B5B0000 = .ok (.pget 13 6 12) ∧
    decode 0x3D6F0000 = .ok (.pset 5 11 12) ∧
    decode 0x43980000 = .ok (.pdeg 14 6) := by decide

/-- Words written out from 30_encoding.md R91, R95. -/
theorem test_decode_field :
    decode 0x60270000 = .ok (.buildf 9 12) ∧
    decode 0x676E8000 = .ok (.fadd 13 11 10) ∧
    decode 0x6B6E8000 = .ok (.fmul 13 11 10) ∧
    decode 0x6F6C0000 = .ok (.finv 13 11) ∧
    decode 0x736F0000 = .ok (.fpow 13 11 12) := by decide

/-- Words written out from 30_encoding.md R91, R95. -/
theorem test_decode_gf2_poly :
    decode 0x8158C000 = .ok (.padd2 5 6 3) ∧
    decode 0x8558C000 = .ok (.pmul2 5 6 3) ∧
    decode 0x8958DC00 = .ok (.pdiv2 5 7 6 3) ∧
    decode 0x8F5A8000 = .ok (.peval2 13 6 10) ∧
    decode 0x9158C000 = .ok (.pgcd2 5 6 3) ∧
    decode 0x9558C000 = .ok (.plcm2 5 6 3) := by decide

/-- Words written out from 30_encoding.md R91, R95. -/
theorem test_decode_gf2m_poly :
    decode 0xA158C000 = .ok (.paddm 5 6 3) ∧
    decode 0xA558C000 = .ok (.pmulm 5 6 3) ∧
    decode 0xA958DC00 = .ok (.pdivm 5 7 6 3) ∧
    decode 0xAF5A8000 = .ok (.pevalm 13 6 10) ∧
    decode 0xB158C000 = .ok (.pgcdm 5 6 3) ∧
    decode 0xB558C000 = .ok (.plcmm 5 6 3) := by decide

/-- Words written out from 30_encoding.md R91, R95. -/
theorem test_decode_code :
    decode 0xC16C0000 = .ok (.minpoly 5 11) ∧
    decode 0xC5640000 = .ok (.genb 5 9) ∧
    decode 0xC8273C01 = .ok (.buildc 9 12 15 true) ∧
    decode 0xCD400000 = .ok (.genrd 5) := by decide

/-- Words written out from 30_encoding.md R91, R95. -/
theorem test_decode_codec :
    decode 0xE15B0000 = .ok (.enc 5 6 12) ∧
    decode 0xE55B0000 = .ok (.syn 5 6 12) ∧
    decode 0xE9583C00 = .ok (.pgz 5 15 6) ∧
    decode 0xED583C00 = .ok (.chien 5 15 6) ∧
    decode 0xF158DC00 = .ok (.corr 5 7 6 3) ∧
    decode 0xF55B1C00 = .ok (.dec 5 7 6 12) := by decide

/-- 95_test_vectors.md §7.1. -/
theorem test_decode_worked :
    decode 0x14000200 = .ok (.li 0 (-512)) ∧ decode 0x140001FF = .ok (.li 0 511) ∧
    decode 0x60048000 = .ok (.buildf 1 2) ∧ decode 0xC80D1400 = .ok (.buildc 3 4 5 false) ∧
    decode 0x2C15C000 = .ok (.stpc 5 7) ∧ decode 0xE9942000 = .ok (.pgz 6 8 5) ∧
    decode 0xF0C9D000 = .ok (.corr 3 4 2 7) ∧ decode 0xF4C8D000 = .ok (.dec 3 4 2 3) ∧
    decode 0x88804C00 = .ok (.pdiv2 2 3 0 1) ∧ decode 0x65110000 = .ok (.fadd 4 4 4) := by decide

/-- 95_test_vectors.md §7.2, with the check that fails first. -/
theorem test_decode_illegal :
    decode 0xFFFFFFFF = .error .reservedOpcode ∧ decode 0x44000000 = .error .reservedOpcode ∧
    decode 0x00000001 = .error .nonzeroImm ∧ decode 0x82000000 = .error (.polyIndexTooLarge .D) ∧
    decode 0x88800800 = .error .sameDestinations ∧ decode 0xC8048C02 = .error .nonzeroImm ∧
    decode 0x14440400 = .error (.nonzeroUnusedField .A) ∧
    decode 0xE8004000 = .error (.nonzeroUnusedField .B) := by decide

theorem test_encode_worked :
    encode (.fmul 3 1 2) = 0x68C48000 ∧ encode (.li 1 (-1)) = 0x144003FF ∧
    encode (.buildc 1 2 3 true) = 0xC8048C01 ∧ encode (.chien 7 9 6) = 0xEDD82400 := by decide

/-! ### Transfer commands (95_test_vectors.md §8.1) -/

theorem test_nop : run .nop built = { built with done := true, phase := .idle } := by decide
theorem test_lde : (run (.lde 1) built).readE 1 = 0xFF := by decide
theorem test_ste : (run (.ste 4) built).dout = 8 := by decide
theorem test_ldr : (run (.ldr 2) built).readR 2 = 0x1FF := by decide
theorem test_str : (run (.str 10) built).dout = 0x80000000 := by decide
theorem test_li : (run (.li 1 (-1)) built).readR 1 = 0xFFFFFFFF := by decide
theorem test_emov : (run (.emov 4 3) built).readE 4 = 0x17 := by decide
theorem test_rmov : (run (.rmov 4 3) built).readR 4 = 15 := by decide
theorem test_pmov : (run (.pmov 4 1) built).readP 4 = built.readP 1 := by decide +kernel
theorem test_pclr : (run (.pclr 1) built).readP 1 = [] := by decide
theorem test_ldpc : (run (.ldpc 2 5) built).readP 2 = [8, 1, 0xFF] := by decide
theorem test_stpc : (run (.stpc 5 5) built).dout = 0xA := by decide
theorem test_ldpb : (run (.ldpb 0 0) { built with din := 0xD }).readP 0 = [1, 0, 1, 1] := by
  decide +kernel
theorem test_ldpb_last_word :
    Poly.coef ((run (.ldpb 0 4) { built with din := 0x80000000 }).readP 0) 255 = 1 := by decide +kernel
theorem test_stpb : (run (.stpb 7 0) bits2).dout = 0x0D2A := by decide
theorem test_pget : (run (.pget 1 5 7) built).readE 1 = 0xF := by decide
theorem test_pset : (run (.pset 4 7 1) built).readP 4 = [0, 0, 0, 0, 1] := by decide
theorem test_pdeg_zero : (run (.pdeg 1 4) built).readR 1 = 0xFFFFFFFF := by decide
theorem test_pdeg_raw : (run (.pdeg 1 0) { built with p := built.p.set 0 [2] }).readR 1 = 0 := by decide
theorem test_index_errors :
    (run (.ldpc 0 8) built).ecode = 0x0C ∧ (run (.ldpb 0 9) built).ecode = 0x0C ∧
    (run (.ldpb 0 6) built).ecode = 0x0C := by decide

/-! ### Field commands (95_test_vectors.md §2) -/

theorem test_buildf : (run (.buildf 1 2) bare).field.fv = false ∧
    (run (.buildf 1 2) { built with field := FieldState.reset }).field = gf16 := by decide +kernel
theorem test_buildf_not_primitive :
    run (.buildf 1 11) built = { built with
      err := true, ecode := 0x01, errcmd := built.latch, done := true, phase := .idle } := by
  decide +kernel
theorem test_fadd : (run (.fadd 5 1 2) built).readE 5 = 0xC := by decide
theorem test_fadd_masks : (run (.fadd 5 3 7) built).readE 5 = 0x6 := by decide
theorem test_fmul : (run (.fmul 5 1 2) built).readE 5 = 0x4 := by decide
theorem test_fmul_source_is_destination : (run (.fmul 5 5 6) built).readE 5 = 0x1 := by decide
theorem test_finv : (run (.finv 5 4) built).readE 5 = 0xF := by decide
theorem test_finv_masked_zero : (run (.finv 5 8) built).ecode = 0x03 := by decide
theorem test_fpow : (run (.fpow 5 9 10) built).readE 5 = 0xD := by decide
theorem test_fpow_of_zero :
    (run (.fpow 5 0 0) built).readE 5 = 0x1 ∧ (run (.fpow 5 0 6) built).ecode = 0x03 := by decide
theorem test_field_not_built :
    (run (.finv 1 0) bare).ecode = 0x09 ∧ (run (.fmul 1 2 3) bare).ecode = 0x09 := by decide

/-! ### Polynomials (95_test_vectors.md §3) -/

theorem test_padd2 : (run (.padd2 4 0 1) bits2).readP 4 = [0, 1, 0, 0, 0, 0, 1, 1, 1] := by decide
theorem test_pmul2 : (run (.pmul2 4 1 2) bits2).readP 4 = [1, 0, 0, 1, 1, 1, 1] := by decide
theorem test_pmul2_overflow : (run (.pmul2 4 3 2) bits2).ecode = 0x0B := by decide +kernel
theorem test_pdiv2 : (run (.pdiv2 2 3 0 1) bits2).readP 2 = [1, 1, 1, 1, 1] ∧
    (run (.pdiv2 2 3 0 1) bits2).readP 3 = [] := by decide +kernel
theorem test_pdiv2_by_zero : (run (.pdiv2 2 3 0 4) bits2).ecode = 0x04 := by decide
theorem test_peval2 :
    (run (.peval2 5 1 7) bits2).readE 5 = 1 ∧ (run (.peval2 5 6 7) bits2).readE 5 = 0 := by decide
theorem test_peval2_at_zero : (run (.peval2 5 1 0) bits2).readE 5 = 1 := by decide
theorem test_pgcd2 : (run (.pgcd2 4 0 5) bits2).readP 4 = [1, 1, 0, 0, 1] := by decide +kernel
theorem test_plcm2 : (run (.plcm2 4 0 5) bits2).readP 4 = [1, 1, 1, 0, 1, 1, 0, 0, 1, 0, 1] := by
  decide +kernel
theorem test_paddm : (run (.paddm 4 5 6) built).readP 4 = [1, 0, 7, 11, 8] := by decide
theorem test_pmulm : (run (.pmulm 4 2 3) built).readP 4 = [5, 14, 1] := by decide +kernel
theorem test_pdivm :
    (run (.pdivm 4 0 1 3) { built with p := built.p.set 1 [5, 14, 1] }).readP 4 = [8, 1] ∧
    (run (.pdivm 4 0 1 3) { built with p := built.p.set 1 [5, 14, 1] }).readP 0 = [] := by decide +kernel
theorem test_pevalm : (run (.pevalm 5 1 6) { built with p := built.p.set 1 [5, 14, 1] }).readE 5 = 0xE := by
  decide +kernel
theorem test_pgcdm : (run (.pgcdm 4 1 2) { built with p := built.p.set 1 [5, 14, 1] }).readP 4 = [8, 1] := by
  decide +kernel
theorem test_pgcdm_monic : (run (.pgcdm 4 1 4) { built with p := built.p.set 1 [2, 4] }).readP 4 = [9, 1] := by
  decide +kernel
theorem test_plcmm : (run (.plcmm 4 2 3) built).readP 4 = [5, 14, 1] := by decide +kernel

/-! ### Minimal polynomials, generator, code (95_test_vectors.md §4) -/

theorem test_minpoly : (run (.minpoly 4 4) built).readP 4 = [1, 1, 1, 1, 1] := by decide +kernel
theorem test_minpoly_short_orbit : (run (.minpoly 4 10) built).readP 4 = [1, 1, 1] := by decide +kernel
theorem test_genb : (run (.genb 4 5) built).readP 4 = bch.gen := by decide +kernel
theorem test_genb_bound : (run (.genb 4 9) built).ecode = 0x02 := by decide
theorem test_buildc : (run (.buildc 3 4 5 false) { built with code := CodeState.reset }).code = bch := by
  decide +kernel
theorem test_buildc_too_long : (run (.buildc 3 9 5 false) built).ecode = 0x02 := by decide +kernel
theorem test_genrd : (run (.genrd 4) built).readP 4 = [1, 0, 0, 0, 1, 0, 1, 1, 1] := by decide
theorem test_code_not_built : (run (.genrd 4) bare).ecode = 0x0A := by decide

/-! ### Codec (95_test_vectors.md §5) -/

theorem test_enc : (run (.enc 4 0 4) built).readP 4 = bits2.readP 7 := by decide +kernel
theorem test_enc_nonsys :
    (run (.enc 4 0 4) nonsys).readP 4 = [1, 0, 1, 1, 1, 0, 0, 0, 0, 0, 0, 1] := by decide +kernel
theorem test_syn : (run (.syn 4 1 3) built).readP 4 = [0, 15, 10, 11, 8] := by decide +kernel
theorem test_syn_length : (run (.syn 4 1 4) built).ecode = 0x06 := by decide
theorem test_pgz : (run (.pgz 4 13 5) built).readP 4 = [1, 15, 13] ∧
    (run (.pgz 4 13 5) built).readR 13 = 2 ∧ (run (.pgz 4 13 5) built).f = false := by decide +kernel
theorem test_pgz_inconclusive :
    (run (.pgz 4 13 5) { built with p := built.p.set 5 [0, 0, 0, 6] }).readR 13 = 0xFFFFFFFF ∧
    (run (.pgz 4 13 5) { built with p := built.p.set 5 [0, 0, 0, 6] }).f = true := by decide +kernel
theorem test_chien : (run (.chien 4 13 6) built).readP 4 = built.readP 7 ∧
    (run (.chien 4 13 6) built).readR 13 = 2 ∧ (run (.chien 4 13 6) built).f = false := by decide +kernel
theorem test_chien_shortened :
    (run (.chien 4 13 6) { short with p := short.p.set 6 [1, 9] }).f = true := by decide +kernel
theorem test_corr : (run (.corr 3 4 1 7) built).readP 3 = bits2.readP 7 ∧
    (run (.corr 3 4 1 7) built).readP 4 = [1, 0, 1, 1] ∧
    (run (.corr 3 4 1 7) built).f = false := by decide +kernel
/-- The re-encoding check of 44_codec.md R217 on g itself. -/
theorem test_corr_reencoding :
    (run (.corr 3 4 1 2) { loose with p := (loose.p.set 1 bch.gen).set 2 [] }).f = true := by decide +kernel
theorem test_dec_corrected : (run (.dec 3 4 1 3) built).readP 3 = [1, 0, 1, 1] ∧
    (run (.dec 3 4 1 3) built).readP 4 = built.readP 7 ∧ (run (.dec 3 4 1 3) built).dst = 1 ∧
    (run (.dec 3 4 1 3) built).f = false := by decide +kernel
/-- 0x0D39, flips at 0, 1 and 4: UNCORRECTABLE. -/
theorem test_dec_uncorrectable :
    (run (.dec 3 4 1 3) { built with p := built.p.set 1 [1, 0, 0, 1, 1, 1, 0, 0, 1, 0, 1, 1] }).dst = 2 := by
  decide +kernel

/-! ### The host side and stepping -/

/-- From reset: the reset clear ends, and the first accepted command is BUILDF with r1 = r2 = 0, which is
InvalidFieldParameters (m < 1). -/
theorem test_withFetchWord :
    (after (State.reset.withFetchWord 32 0x60048000)).ecode = 0x01 ∧
    (after (State.reset.withFetchWord 32 0x144003FF)).readR 1 = 0xFFFFFFFF ∧
    (after (State.reset.withFetchWord 32 0x144003FF)).phase = .idle := by decide +kernel

theorem test_decodeTableWord :
    decodeTableWord 32 0x68C48000 = some (.fmul 3 1 2) ∧ decodeTableWord 32 0xFFFFFFFF = none := by decide

theorem test_reset_clear : after State.reset = { State.reset with phase := .idle } := by decide

/-- STATUS after the boot of 95_test_vectors.md §9 P1, and after the error of P5 step 17. -/
theorem test_status_reads : idle.windowRead 0x10 = 0x182 ∧ latched.windowRead 0x10 = 0x30186 ∧
    latched.windowRead 0x20 = 0x6D400000 := by decide

theorem test_data_reads : built.windowRead 0x18 = 0x1FF ∧ { built with dout := 0xD2A }.windowRead 0x1C = 0xD2A ∧
    { latched with err := false }.windowRead 0x20 = 0 := by decide

theorem test_params_read : built.windowRead 0x08 = 0x00080808 := by decide

/-! ### Witnesses: concrete inputs that meet the hypotheses of the statements -/

/-- The encodings' statements, and every statement about a well-formed command. -/
theorem witness_wellFormed : (Instr.pdiv2 5 7 6 3).wellFormed = true ∧
    decode (encode (.pdiv2 5 7 6 3)) = .ok (.pdiv2 5 7 6 3) ∧
    needsFieldBuilt (.fadd 1 2 3) = true ∧ bare.field.fv = false ∧
    needsCodeBuilt (.enc 1 0 4) = true ∧ bare.code.cv = false := by decide

/-- MOVI at both ends of its range. -/
theorem witness_movi :
    assembleLine ⟨.movi, [.r 1, .imm (-512)]⟩ = some (.li 1 0x200) ∧
    assembleLine ⟨.movi, [.r 1, .imm 511]⟩ = some (.li 1 0x1FF) ∧
    assembleLine ⟨.movi, [.r 1, .imm 512]⟩ = none := by decide

theorem witness_step_runs :
    (let s := { built with latch := 0x68C48000 }
     s.phase = .executing ∧ decode s.latch = .ok (.fmul 3 1 2) ∧ s.agenda = []) ∧
    (let s := { built with latch := 0x68C48000, agenda := [.engine, .reset] }
     s.phase = .executing ∧ decode s.latch = .ok (.fmul 3 1 2) ∧ s.agenda = .engine :: [.reset]) := by
  decide

theorem witness_illegal_word :
    let s := { idle with agenda := [.write 0x14 4 0xFFFFFFFF, .engine] }
    s.phase = .idle ∧ s.err = false ∧
    s.agenda = [.write (s.cfg.engineBase + 0x14) 4 0xFFFFFFFF, .engine] ∧
    decode 0xFFFFFFFF = .error .reservedOpcode := by decide

/-- A CMD write accepted, dropped while busy, dropped by the latch; a DIN write in both cases; CTRL with and
without CLRERR; STATUS. -/
theorem witness_writes :
    idle.phase = .idle ∧ idle.err = false ∧ ¬ (built.phase = .idle ∧ built.err = false) ∧
    ¬ (latched.phase = .idle ∧ latched.err = false) ∧
    (let s := { idle with agenda := [.write 0x14 4 0] }
     s.agenda = .write (s.cfg.engineBase + 0x14) 4 0 :: []) ∧
    (let s := { built with agenda := [.write 0x18 4 7] }
     s.agenda = .write (s.cfg.engineBase + 0x18) 4 7 :: []) ∧
    (let s := { latched with agenda := [.write 0x0C 4 0xA] }
     s.agenda = .write (s.cfg.engineBase + 0x0C) 4 0xA :: []) ∧
    (0xA : Word).getLsbD 0 = false ∧ (0x4 : Word).getLsbD 0 = false ∧ (1 : Word).getLsbD 0 = true ∧
    (let s := { idle with agenda := [.write 0x10 4 0xA] }
     s.agenda = .write (s.cfg.engineBase + 0x10) 4 0xA :: []) := by decide

/-- Identification, gated, reserved and read-only offsets at the ends of their ranges. -/
theorem witness_window :
    built.cfg.Valid ∧ built.field.fv = true ∧ built.code.cv = true ∧ bare.field.fv = false ∧
    bare.code.cv = false ∧
    (let s := { idle with agenda := [.write 0x3C 4 1] }
     s.agenda = .write (s.cfg.engineBase + 0x3C) 4 1 :: []) ∧
    (let s := { idle with agenda := [.write 0xFC 4 1] }
     s.agenda = .write (s.cfg.engineBase + 0xFC) 4 1 :: []) ∧
    (let s := { idle with agenda := [.read 0xFC 4] }
     s.agenda = .read (s.cfg.engineBase + 0xFC) 4 :: []) ∧
    (let s := { idle with agenda := [.write 0xFF 4 1] }
     s.agenda = .write (s.cfg.engineBase + 0xFF) 4 1 :: [] ∧ 0xFF % 4 ≠ 0) ∧
    (let s := { idle with agenda := [.read 0 2] }
     s.agenda = .read (s.cfg.engineBase + 0) 2 :: [] ∧ 2 ≠ 4) ∧
    (let s := { idle with agenda := [.read 0x100 4] }
     s.agenda = .read 0x100 4 :: [] ∧ s.cfg.engineBase + 256 ≤ 0x100) ∧
    (let s := { idle with cfg := { Config.build with engineBase := 256 }, agenda := [.write 0xFF 4 1] }
     s.agenda = .write 0xFF 4 1 :: [] ∧ 0xFF < s.cfg.engineBase) := by decide

/-- A reset alone, and with a CTRL, a CMD and a DIN write during the clear. -/
theorem witness_reset_event :
    { built with agenda := [.reset, .engine] }.agenda = [.reset, .engine] ∧
    (let s := { built with agenda := [.reset, .write 0x0C 4 0xC, .engine] }
     s.agenda = [.reset, .write (s.cfg.engineBase + 0x0C) 4 0xC, .engine] ∧
       (0xC : Word).getLsbD 0 = false) ∧
    (let s := { built with agenda := [.reset, .write 0x14 4 0, .engine] }
     s.agenda = [.reset, .write (s.cfg.engineBase + 0x14) 4 0, .engine]) ∧
    (let s := { built with agenda := [.reset, .write 0x18 4 7, .engine] }
     s.agenda = [.reset, .write (s.cfg.engineBase + 0x18) 4 7, .engine]) := by decide

/-- The frames: a command that succeeds, one that raises, and the latch. -/
theorem witness_exec :
    exec (.fmul 5 1 2) built = .next (run (.fmul 5 1 2) built) ∧ built.err = false ∧
    (run (.fmul 5 1 2) built).err = false ∧
    exec (.finv 5 0) built = .next (run (.finv 5 0) built) ∧ (run (.finv 5 0) built).err = true ∧
    exec (.dec 3 4 1 3) built = .next (run (.dec 3 4 1 3) built) :=
  ⟨exec_run (by decide), rfl, by decide, exec_run (by decide), by decide, exec_run (by decide +kernel)⟩

theorem witness_latch :
    let s := { latched with agenda := [.write 0x14 4 0] }
    s.Inv ∧ s.err = true ∧ s.agenda = .write 0x14 4 0 :: [] ∧ step s = .next (after s) ∧
    (.write 0x14 4 0 : BusEvent) ≠ .reset ∧
    ∀ v, (.write 0x14 4 0 : BusEvent) ≠ .write (s.cfg.engineBase + 0x0C) 4 v :=
  ⟨inv_latched built_inv _, rfl, rfl, rfl, by decide, fun v h => absurd (BusEvent.write.inj h).1 (by decide)⟩

theorem witness_step_inv :
    let s := { built with latch := 0x6D540000 }
    s.Inv ∧ step s = .next (after s) :=
  ⟨inv_of_executing rfl rfl bch_built rfl bch_gen_fits (by decide) built_polys rfl rfl rfl rfl rfl rfl, rfl⟩

/-- The invariant with a field and a code, and without. -/
theorem witness_inv : built.Inv ∧ built.field.fv = true ∧ built.code.cv = true ∧ bare.Inv ∧
    Params.Valid ⟨16, 255, 65536, 256⟩ :=
  ⟨built_inv, rfl, rfl, bare_inv, by decide⟩

/-- Indices at both sides of their bounds. -/
theorem witness_indices :
    (built.readR 12).toNat < built.cfg.polyLen ∧ built.cfg.polyLen ≤ (built.readR 8).toNat ∧
    (built.readR 4).toNat < built.cfg.polyLen / 32 ∧
    built.cfg.polyLen / 32 ≤ (built.readR 9).toNat := by decide

/-- PDEG: a zero register, and a highest nonzero coefficient. -/
theorem witness_pdeg : (∀ j, Poly.coef (built.readP 4) j = 0) ∧ Poly.coef (built.readP 2) 1 ≠ 0 ∧
    ∀ k, 1 < k → Poly.coef (built.readP 2) k = 0 := by
  refine ⟨fun j => rfl, by decide, fun k hk => ?_⟩
  exact List.getD_eq_default _ _ (Nat.succ_le_of_lt hk)

theorem witness_buildf : bare.cfg.Valid ∧
    (1 ≤ 4 ∧ 4 ≤ bare.cfg.mMax ∧ 0x13 / 2 ^ 4 = 1 ∧
      (∀ j, j < 15 → 0 < j → alphaPower 4 0x13 j ≠ 1) ∧ alphaPower 4 0x13 15 = 1) ∧
    alphaPower 4 0x1F 5 = 1 := by decide +kernel

/-- FINV and FPOW: a nonzero and a zero operand, with a non-negative and a negative exponent. -/
theorem witness_field_operands :
    built.feReg 4 ≠ 0 ∧ built.feReg 8 = 0 ∧ 0 ≤ (built.readR 1).toInt ∧ (built.readR 6).toInt < 0 := by
  decide

/-- Products, divisions and least common multiples: zero operands, results that fit, and results that do
not. -/
theorem witness_poly_operands :
    bits2.proj2 4 = [] ∧ bits2.proj2 0 ≠ [] ∧ bits2.proj2 1 ≠ [] ∧ bits2.proj2 3 ≠ [] ∧
    Poly.deg (bits2.proj2 0) + Poly.deg (bits2.proj2 1) < bits2.cfg.polyLen ∧
    bits2.cfg.polyLen ≤ Poly.deg (bits2.proj2 3) + Poly.deg (bits2.proj2 1) ∧
    Poly.deg (bits2.proj2 0) + Poly.deg (bits2.proj2 5) -
      Poly.deg (Poly.gcd Arith.gf2 (bits2.proj2 0) (bits2.proj2 5)) < bits2.cfg.polyLen ∧
    bits2.cfg.polyLen ≤ Poly.deg (bits2.proj2 3) + Poly.deg (bits2.proj2 1) -
      Poly.deg (Poly.gcd Arith.gf2 (bits2.proj2 3) (bits2.proj2 1)) := by decide +kernel

theorem witness_polym_operands :
    built.projm 4 = [] ∧ built.projm 2 ≠ [] ∧ built.projm 3 ≠ [] ∧ bits2.projm 3 ≠ [] ∧
    Poly.deg (built.projm 2) + Poly.deg (built.projm 3) -
      Poly.deg (Poly.gcd built.field.arith (built.projm 2) (built.projm 3)) < built.cfg.polyLen ∧
    bits2.cfg.polyLen ≤ Poly.deg (bits2.projm 3) + Poly.deg (bits2.projm 1) -
      Poly.deg (Poly.gcd bits2.field.arith (bits2.projm 3) (bits2.projm 1)) ∧
    bits2.projm 0 = bits2.proj2 0 ∧ bits2.projm 1 = bits2.proj2 1 := by decide +kernel

/-- PEVAL2 at 0 and at 1, PEVALM at 0. -/
theorem witness_points : (built.readE 4).getLsbD 0 = false ∧ (built.readE 1).getLsbD 0 = true ∧
    built.feReg 0 = 0 := by decide

/-- MINPOLY of 0 and of 1; GENB at t = 0, at the last t that fits, and at the first that does not. -/
theorem witness_generator :
    built.feReg 0 = 0 ∧ built.feReg 7 = 1 ∧ fieldBuilt built.cfg built.field ∧
    2 * 7 + 1 ≤ built.field.q1 ∧ 2 * (built.readR 0).toNat + 1 ≤ 2 ^ built.field.deg - 1 ∧
    2 * (built.readR 4).toNat + 1 ≤ 2 ^ built.field.deg - 1 ∧
    2 ^ built.field.deg - 1 < 2 * (built.readR 9).toNat + 1 := by decide +kernel

/-- BUILDC's checks met at equality, and failed by k = 8. -/
theorem witness_buildc :
    (1 ≤ (built.readR 4).toNat ∧ (built.readR 4).toNat ≤ (built.readR 3).toNat ∧
      (built.readR 3).toNat ≤ 2 ^ built.field.deg - 1 ∧ (built.readR 5).toNat ≤ built.cfg.tMax ∧
      2 * (built.readR 5).toNat + 1 ≤ 2 ^ built.field.deg - 1 ∧
      Poly.deg (generatorPoly built.field 2) ≤ ((built.readR 3).toNat : Int) - (built.readR 4).toNat) ∧
    ¬ (Poly.deg (generatorPoly built.field 2) ≤
      ((built.readR 3).toNat : Int) - (built.readR 9).toNat) := by decide +kernel

/-- The codec's lengths, right and wrong, in both forms of the code. -/
theorem witness_codec : built.readR 4 = built.code.k ∧ built.readR 9 ≠ built.code.k ∧
    built.readR 3 = built.code.n ∧ built.readR 4 ≠ built.code.n ∧
    built.code.nonsys = false ∧ nonsys.code.nonsys = true ∧ (3 : PReg) ≠ 4 ∧
    built.code.n.toNat = 2 ^ built.field.deg - 1 := by decide

theorem witness_syn : exec (.syn 4 1 3) built = .next (run (.syn 4 1 3) built) ∧
    1 ≤ 4 ∧ 4 ≤ 2 * built.code.t.toNat :=
  ⟨exec_run (by decide +kernel), by decide⟩

theorem witness_pgz : exec (.pgz 4 13 5) built = .next (run (.pgz 4 13 5) built) ∧
    (run (.pgz 4 13 5) built).f = false ∧
    1 ≤ 2 ∧ 2 ≤ ((run (.pgz 4 13 5) built).readR 13).toNat :=
  ⟨exec_run (by decide +kernel), by decide +kernel⟩

/-- M_1 of the syndromes 0xF, … is nonsingular: its one entry is 0xF. -/
theorem witness_pgz_nonsingular : 1 ≤ built.code.t.toNat ∧
    ¬ Singular built.field (fun i => built.field.fe (Poly.coef (built.readP 5) i)) 1 := by
  refine ⟨by decide, ?_⟩
  rintro ⟨x, ⟨col, hc, hx⟩, hf, h⟩
  obtain rfl : col = 0 := by omega
  have key : ∀ n < 16, n ≠ 0 → built.field.mul
      (built.field.fe (Poly.coef (built.readP 5) 1)) (BitVec.ofNat 16 n) ≠ 0 := by decide +kernel
  refine key (x 0).toNat (hf 0 hc) (fun h0 => hx (BitVec.eq_of_toNat_eq h0)) ?_
  have h0 := h 0 hc
  simpa [xorSum] using h0

/-- The sequence SYN, PGZ, CHIEN, CORR beside DEC, all of which run. -/
theorem witness_sequence {s : State} (h₁ : goesOn (.syn 5 1 3) s = true)
    (h₂ : goesOn (.pgz 6 13 5) (run (.syn 5 1 3) s) = true)
    (h₃ : goesOn (.chien 7 14 6) (run (.pgz 6 13 5) (run (.syn 5 1 3) s)) = true)
    (h₄ : goesOn (.corr 3 4 1 7) (run (.chien 7 14 6) (run (.pgz 6 13 5) (run (.syn 5 1 3) s))) = true)
    (h₅ : goesOn (.dec 3 4 1 3) s = true) :
    ∃ s₁ s₂ s₃ s₄ t, exec (.syn 5 1 3) s = .next s₁ ∧ exec (.pgz 6 13 5) s₁ = .next s₂ ∧
      exec (.chien 7 14 6) s₂ = .next s₃ ∧ exec (.corr 3 4 1 7) s₃ = .next s₄ ∧
      exec (.dec 3 4 1 3) s = .next t :=
  ⟨_, _, _, _, _, exec_run h₁, exec_run h₂, exec_run h₃, exec_run h₄, exec_run h₅⟩

/-- The flags of the sequence: F of PGZ, CHIEN and CORR, and whether the syndromes are all 0. -/
def sequenceFlags (s : State) : List Bool :=
  let s₁ := run (.syn 5 1 3) s
  let s₂ := run (.pgz 6 13 5) s₁
  let s₃ := run (.chien 7 14 6) s₂
  [s₂.f, s₃.f, (run (.corr 3 4 1 7) s₃).f, s₁.readP 5 == []]

/-- Two flips, the codeword itself, and three flips (0x0D39 of 95_test_vectors.md §5.6). -/
theorem witness_sequence_outcomes :
    sequenceFlags built = [false, false, false, false] ∧
    sequenceFlags { built with p := built.p.set 1 (bits2.readP 7) } = [false, false, false, true] ∧
    (sequenceFlags { built with p := built.p.set 1 [1, 0, 0, 1, 1, 1, 0, 0, 1, 0, 1, 1] }).head? =
      some true ∧
    ∃ s₁ s₂ s₃ s₄ t, exec (.syn 5 1 3) built = .next s₁ ∧ exec (.pgz 6 13 5) s₁ = .next s₂ ∧
      exec (.chien 7 14 6) s₂ = .next s₃ ∧ exec (.corr 3 4 1 7) s₃ = .next s₄ ∧
      exec (.dec 3 4 1 3) built = .next t :=
  ⟨by decide +kernel, by decide +kernel, by decide +kernel,
    witness_sequence (by decide +kernel) (by decide +kernel) (by decide +kernel) (by decide +kernel)
      (by decide +kernel)⟩

theorem witness_round_trip : built.Inv ∧ nonsys.Inv ∧
    exec (.enc 3 0 4) built = .next (run (.enc 3 0 4) built) ∧
    bitVector built.code.n.toNat ((run (.enc 3 0 4) built).readP 4) = [] ∧
    (run (.dec 3 4 1 3) built).dst = 1 :=
  ⟨built_inv, nonsys_inv, exec_run (by decide +kernel), by decide +kernel, by decide +kernel⟩

end Sys2Proof.Tests
end

section
/-! The state right after reset: what its registers read, and that it meets the invariant
(10_state.md R45). -/

namespace Sys2Proof.Machine

@[simp] theorem readE_resetOf (c : Params) (i : EReg) : (State.resetOf c).readE i = 0#16 := by
  simp [State.readE, State.resetOf]

@[simp] theorem readP_resetOf (c : Params) (i : PReg) : (State.resetOf c).readP i = [] := by
  simp [State.readP, State.resetOf]

/-- The zero polynomial fits the registers of every build. -/
theorem polyFits_nil (c : Params) : polyFits c [] :=
  ⟨rfl, Nat.zero_le _, fun _ hx => absurd hx List.not_mem_nil⟩

theorem build_valid : Config.build.Valid := by decide

/-- The registers are zero and hence fit; nothing is built and nothing is latched, so every clause about a
built field, a built code or a latched error is empty. -/
theorem resetOf_inv {c : Params} (hc : c.Valid) : (State.resetOf c).Inv where
  cfgValid := hc
  elemsFit i := by
    rw [readE_resetOf]
    exact Nat.two_pow_pos _
  polysFit i := by
    rw [readP_resetOf]
    exact polyFits_nil _
  genFits := polyFits_nil c
  fieldOn hfv := absurd hfv Bool.false_ne_true
  fieldOff _ := ⟨rfl, rfl⟩
  codeOn hcv := absurd hcv Bool.false_ne_true
  codeOff _ := rfl
  dstLegal := show (0#2) ≠ 3 by decide
  errOff _ := ⟨rfl, rfl⟩
  errOn herr := absurd herr Bool.false_ne_true
  busyNotDone _ := rfl
  clearing _ := ⟨rfl, rfl⟩

/-- Settles O23: `State.reset` is the reset state of the build `Config.build`, which is valid. -/
theorem resetStateMeetsTheInvariant : Obligations.ResetStateMeetsTheInvariant :=
  ⟨resetOf_inv build_valid, fun _ hc => resetOf_inv hc⟩

end Sys2Proof.Machine
end

section
/-! What a command can commit, said once for all 44: every answer of `exec` is an error commit or a success
commit after writes to the command's own destinations (20_memory.md R67, 60_exceptions.md R284). The frame of
every command and the invariant are read off it. -/

namespace Sys2Proof.Machine

open Sys2Proof.Spec

/-- The answers the command `i` can give in state `s`. Each success commit carries which destinations of `i`
it wrote, and for BUILDF and BUILDC what the checks before it established; an error commit carries a code
that 60_exceptions.md R281 lists for `i` unless `i` is ill-formed. -/
inductive Commits (i : Instr) (s : State) : Result → Prop where
  | raised {c : ErrorCode} (hc : (raisable i).contains c.code = true) :
      Commits i s (.next (s.errorCommit c))
  | illFormed (hw : i.wellFormed = false) : Commits i s (.next (s.errorCommit .illegalInstruction))
  | bare : Commits i s (.next s.complete)
  | elem {d : EReg} {v : Elem} (hd : eDest i = some d) : Commits i s (.next (s.writeE d v).complete)
  | int {d : RReg} {v : Word} (hd : rDest i = some d) : Commits i s (.next (s.writeR d v).complete)
  | poly {d : PReg} {P : Poly} (hd : pDests i = [d]) : Commits i s (.next (s.writeP d P).complete)
  | polys {d c : PReg} {P Q : Poly} (hd : pDests i = [d, c]) :
      Commits i s (.next ((s.writeP d P).writeP c Q).complete)
  | dout {v : Word} (hop : i.op = .ste ∨ i.op = .str ∨ i.op = .stpc ∨ i.op = .stpb) :
      Commits i s (.next (s.writeDout v).complete)
  | polyIntF {d : PReg} {c : RReg} {P : Poly} {v : Word} {b : Bool} (hd : pDests i = [d])
      (hc : rDest i = some c) (hop : i.op = .pgz ∨ i.op = .chien) :
      Commits i s (.next (((s.writeP d P).writeR c v).writeF b).complete)
  | polysF {d c : PReg} {P Q : Poly} {b : Bool} (hd : pDests i = [d, c]) (hop : i.op = .corr) :
      Commits i s (.next (((s.writeP d P).writeP c Q).writeF b).complete)
  | polysOutcome {d c : PReg} {P Q : Poly} {o : DecodeStatus} (hd : pDests i = [d, c])
      (hop : i.op = .dec) : Commits i s (.next (((s.writeP d P).writeP c Q).writeOutcome o).complete)
  | field {F : FieldState} (hop : i.op = .buildf) (hfv : F.fv = true) (hF : fieldBuilt s.cfg F) :
      Commits i s (.next { s with field := F, code := CodeState.reset }.complete)
  | code {C : CodeState} (hop : i.op = .buildc) (hfv : s.field.fv = true) (hcv : C.cv = true)
      (hC : codeBuilt s.cfg s.field C) : Commits i s (.next { s with code := C }.complete)

/-! ### The gates and checks before a commit -/

section
variable {i : Instr} {s : State} {k : Unit → Result}

theorem commits_needField
    (hc : (raisable i).contains ErrorCode.fieldNotBuilt.code = true)
    (h : Commits i s (k ())) :
    Commits i s (needField s k) := by
  obtain ⟨-, hx⟩ | ⟨-, hx⟩ := needField_cases s (k := k) rfl
  · exact hx ▸ h
  · exact hx ▸ .raised hc

theorem commits_needCode
    (hc : (raisable i).contains ErrorCode.codeNotBuilt.code = true)
    (h : Commits i s (k ())) :
    Commits i s (needCode s k) := by
  obtain ⟨-, hx⟩ | ⟨-, hx⟩ := needCode_cases s (k := k) rfl
  · exact hx ▸ h
  · exact hx ▸ .raised hc

theorem commits_needDistinct {d c : PReg} (hw : i.wellFormed = (d != c))
    (h : Commits i s (k ())) :
    Commits i s (needDistinct d c s k) := by
  obtain ⟨-, hx⟩ | ⟨hdc, hx⟩ := needDistinct_cases s (k := k) rfl
  · exact hx ▸ h
  · exact hx ▸ .illFormed (by simp [hw, hdc])

theorem commits_needIndex {ok : Bool}
    (hc : (raisable i).contains ErrorCode.indexOutOfRange.code = true)
    (h : Commits i s (k ())) :
    Commits i s (needIndex ok s k) := by
  obtain ⟨-, hx⟩ | ⟨-, hx⟩ := needIndex_cases s (k := k) rfl
  · exact hx ▸ h
  · exact hx ▸ .raised hc

theorem commits_finishIfFits {d : PReg} {g : Int} {P : Poly} (hd : pDests i = [d])
    (hc : (raisable i).contains ErrorCode.polynomialOverflow.code = true) :
    Commits i s (finishIfFits s d g P) := by
  obtain ⟨-, hx⟩ | ⟨-, hx⟩ := finishIfFits_cases s (d := d) (g := g) (P := P) rfl
  · exact hx ▸ .poly hd
  · exact hx ▸ .raised hc

theorem commits_ite {p : Prop} [Decidable p] {x y : Result} (hx : p → Commits i s x)
    (hy : ¬ p → Commits i s y) : Commits i s (if p then x else y) := by
  split
  · exact hx ‹_›
  · exact hy ‹_›

end

/-! ### The commands whose commit depends on more than a gate -/

/-- BUILDF builds a field only after its three checks (40_field.md R121). -/
theorem commits_buildf (a b : RReg) (s : State) : Commits (.buildf a b) s (execBuildf a b s) := by
  rw [execBuildf]
  refine commits_ite (fun _ => .raised rfl) fun hm => commits_ite (fun _ => .raised rfl) fun hP => ?_
  rw [not_or, Nat.not_lt, Nat.not_lt] at hm
  split
  · exact .raised rfl
  · next tables htab =>
    exact .field rfl rfl ⟨hm.1, hm.2, Bool.eq_true_of_not_eq_false hP, htab⟩

/-- BUILDC builds a code only after its four checks (43_minpoly_generator.md R186). -/
theorem commits_buildc (a b c : RReg) (ns : Bool) (s : State) :
    Commits (.buildc a b c ns) s (execBuildc a b c ns s) := by
  obtain ⟨hfv, hx⟩ | ⟨-, hx⟩ := needField_cases s (x := execBuildc a b c ns s) rfl
  · rw [← hx]
    refine commits_ite (fun _ => .raised rfl) fun hnk => commits_ite (fun _ => .raised rfl) fun ht =>
      commits_ite (fun _ => .raised rfl) fun htq => commits_ite (fun _ => .raised rfl) fun hg => ?_
    obtain ⟨hk, hkn, hn⟩ := not_not.mp hnk
    exact .code rfl hfv rfl
      ⟨hk, hkn, hn, Nat.not_lt.mp ht, Nat.not_lt.mp htq, Int.not_lt.mp hg, rfl, rfl⟩
  · rw [hx]
    exact .raised rfl

/-- PGZ writes its outputs whether or not it locates errors (44_codec.md R208). -/
theorem commits_pgz (d : PReg) (c : RReg) (a : PReg) (s : State) :
    Commits (.pgz d c a) s (execPgz d c a s) := by
  refine commits_needCode rfl ?_
  split <;> exact .polyIntF rfl rfl (.inl rfl)

/-- Every command commits its own destinations or an error. -/
theorem exec_commits (i : Instr) (s : State) : Commits i s (exec i s) := by
  unfold exec
  cases i with
  | nop => exact .bare
  | lde d => exact .elem rfl
  | ste a => exact .dout (.inl rfl)
  | ldr d => exact .int rfl
  | str a => exact .dout (.inr (.inl rfl))
  | li d imm => exact .int rfl
  | emov d a => exact .elem rfl
  | rmov d a => exact .int rfl
  | pmov d a => exact .poly rfl
  | pclr d => exact .poly rfl
  | ldpc d a => exact commits_needIndex rfl (.poly rfl)
  | stpc a b => exact commits_needIndex rfl (.dout (.inr (.inr (.inl rfl))))
  | ldpb d a => exact commits_needIndex rfl (.poly rfl)
  | stpb a b => exact commits_needIndex rfl (.dout (.inr (.inr (.inr rfl))))
  | pget d a b => exact commits_needIndex rfl (.elem rfl)
  | pset d a b => exact commits_needIndex rfl (.poly rfl)
  | pdeg d a => exact .int rfl
  | buildf a b => exact commits_buildf a b s
  | fadd d a b => exact commits_needField rfl (.elem rfl)
  | fmul d a b => exact commits_needField rfl (.elem rfl)
  | finv d a => exact commits_needField rfl (commits_ite (fun _ => .raised rfl) fun _ => .elem rfl)
  | fpow d a b =>
    exact commits_needField rfl (commits_ite
      (fun _ => commits_ite (fun _ => .elem rfl) fun _ => commits_ite (fun _ => .elem rfl)
        fun _ => .raised rfl)
      fun _ => .elem rfl)
  | padd2 d a b => exact .poly rfl
  | pmul2 d a b => exact commits_ite (fun _ => .poly rfl) fun _ => commits_finishIfFits rfl rfl
  | pdiv2 d c a b =>
    exact commits_needDistinct rfl (commits_ite (fun _ => .raised rfl) fun _ => .polys rfl)
  | peval2 d a b => exact .elem rfl
  | pgcd2 d a b => exact .poly rfl
  | plcm2 d a b => exact commits_finishIfFits rfl rfl
  | paddm d a b => exact commits_needField rfl (.poly rfl)
  | pmulm d a b =>
    exact commits_needField rfl (commits_ite (fun _ => .poly rfl) fun _ => commits_finishIfFits rfl rfl)
  | pdivm d c a b =>
    exact commits_needDistinct rfl
      (commits_needField rfl (commits_ite (fun _ => .raised rfl) fun _ => .polys rfl))
  | pevalm d a b => exact commits_needField rfl (.elem rfl)
  | pgcdm d a b => exact commits_needField rfl (.poly rfl)
  | plcmm d a b => exact commits_needField rfl (commits_finishIfFits rfl rfl)
  | minpoly d a => exact commits_needField rfl (.poly rfl)
  | genb d a => exact commits_needField rfl (commits_ite (fun _ => .raised rfl) fun _ => .poly rfl)
  | buildc a b c ns => exact commits_buildc a b c ns s
  | genrd d => exact commits_needCode rfl (.poly rfl)
  | enc d a b => exact commits_needCode rfl (commits_ite (fun _ => .raised rfl) fun _ => .poly rfl)
  | syn d a b => exact commits_needCode rfl (commits_ite (fun _ => .raised rfl) fun _ => .poly rfl)
  | pgz d c a => exact commits_pgz d c a s
  | chien d c a => exact commits_needCode rfl (.polyIntF rfl rfl (.inr rfl))
  | corr d c a b =>
    exact commits_needDistinct rfl
      (commits_needCode rfl (commits_ite (fun _ => .polysF rfl rfl) fun _ => .polysF rfl rfl))
  | dec d c a b =>
    exact commits_needDistinct rfl
      (commits_needCode rfl (commits_ite (fun _ => .raised rfl) fun _ => .polysOutcome rfl rfl))

theorem commits_of_exec {i : Instr} {s t : State} (h : exec i s = .next t) : Commits i s (.next t) :=
  h ▸ exec_commits i s

end Sys2Proof.Machine
end

section
/-! The invariant, operation by operation, and that every step keeps it. -/

namespace Sys2Proof.Machine

open Sys2Proof.Spec

/-! ### Register writes and commits -/

section
variable {s : State}

/-- The invariant speaks of no integer register, of none of F, DONEIE, ERRIE, OVR, DIN, DOUT, and of none
of the latched word, the agenda and the read word. -/
theorem inv_unread (h : s.Inv) {r : Vector Word 16} {f de ee ov : Bool} {di dt la rd : Word}
    {ag : List BusEvent} :
    State.Inv { s with r := r, f := f, doneie := de, errie := ee, ovr := ov, din := di, dout := dt,
                       latch := la, agenda := ag, rdata := rd } :=
  { h with }

theorem inv_writeE (h : s.Inv) (d : EReg) (v : Elem) : (s.writeE d v).Inv :=
  { h with
    elemsFit := fun i => by
      rw [readE_writeE]
      split
      · exact storeElem_lt s.cfg v
      · exact h.elemsFit i }

theorem inv_writeP (h : s.Inv) (d : PReg) (P : Poly) : (s.writeP d P).Inv :=
  { h with
    polysFit := fun i => by
      rw [readP_writeP]
      split
      · exact storePoly_canonical s.cfg P
      · exact h.polysFit i }

theorem inv_writeOutcome (h : s.Inv) (o : DecodeStatus) : (s.writeOutcome o).Inv :=
  { h with dstLegal := decodeStatus_code_ne o }

theorem inv_complete (h : s.Inv) : s.complete.Inv :=
  { h with
    errOn := fun he => ⟨rfl, (h.errOn he).2⟩
    busyNotDone := fun hp => absurd rfl hp
    clearing := nofun }

theorem code_mem_legalCodes (c : ErrorCode) : c.code ∈ legalCodes := by
  cases c <;> decide

theorem inv_errorCommit (h : s.Inv) (c : ErrorCode) : (s.errorCommit c).Inv :=
  { h with
    errOff := nofun
    errOn := fun _ => ⟨rfl, code_mem_legalCodes c⟩
    busyNotDone := fun hp => absurd rfl hp
    clearing := nofun }

/-- BUILDF's commit: a built field, and the code invalidated (10_state.md R28). -/
theorem inv_field_commit (h : s.Inv) {F : FieldState} (hfv : F.fv = true) (hF : fieldBuilt s.cfg F) :
    State.Inv { s with field := F, code := CodeState.reset }.complete :=
  { inv_complete h with
    genFits := polyFits_nil s.cfg
    fieldOn := fun _ => hF
    fieldOff := fun hoff => Bool.noConfusion (hfv.symm.trans hoff)
    codeOn := nofun
    codeOff := fun _ => rfl
    clearing := nofun }

/-- BUILDC's commit: GEN is stored like every polynomial register. -/
theorem inv_code_commit (h : s.Inv) {C : CodeState} (hfv : s.field.fv = true) (hcv : C.cv = true)
    (hC : codeBuilt s.cfg s.field C) : State.Inv { s with code := C }.complete :=
  { inv_complete h with
    genFits := by
      obtain ⟨-, -, -, -, -, -, hgen, -⟩ := hC
      exact hgen ▸ storePoly_canonical s.cfg _
    codeOn := fun _ => ⟨hfv, hC⟩
    codeOff := fun hoff => Bool.noConfusion (hcv.symm.trans hoff)
    clearing := nofun }

/-- Every command keeps the invariant, whatever it commits. -/
theorem inv_exec {i : Instr} {t : State} (h : s.Inv) (hx : exec i s = .next t) : t.Inv := by
  cases commits_of_exec hx with
  | raised => exact inv_errorCommit h _
  | illFormed => exact inv_errorCommit h _
  | bare => exact inv_complete h
  | elem => exact inv_complete (inv_writeE h _ _)
  | int => exact inv_complete (inv_unread h)
  | poly => exact inv_complete (inv_writeP h _ _)
  | polys => exact inv_complete (inv_writeP (inv_writeP h _ _) _ _)
  | dout => exact inv_complete (inv_unread h)
  | polyIntF => exact inv_complete (inv_unread (inv_writeP h _ _))
  | polysF => exact inv_complete (inv_unread (inv_writeP (inv_writeP h _ _) _ _))
  | polysOutcome => exact inv_complete (inv_writeOutcome (inv_writeP (inv_writeP h _ _) _ _) _)
  | field _ hfv hF => exact inv_field_commit h hfv hF
  | code _ hfv hcv hC => exact inv_code_commit h hfv hcv hC

/-! ### The engine's turn -/

theorem inv_runLatched {t : State} (h : s.Inv) (hx : runLatched s = .next t) : t.Inv := by
  rw [runLatched] at hx
  split at hx
  · exact inv_exec h hx
  · cases hx
    exact inv_errorCommit h _

/-- The end of the reset clear: FIELD and CODE are at reset before it, so zeroing the tables and GEN changes
neither. -/
theorem inv_endClear (h : s.Inv) (hp : s.phase = .resetClear) : s.endClear.Inv := by
  obtain ⟨hfield, hcode⟩ := h.clearing hp
  have hF : s.endClear.field = FieldState.reset := by rw [State.endClear_field, hfield]; rfl
  have hC : s.endClear.code = CodeState.reset := by rw [State.endClear_code, hcode]; rfl
  exact
    { h with
      elemsFit := fun i => by simp [State.readE]
      polysFit := fun i => by
        simp only [State.readP, State.endClear_p, Vector.getElem_replicate]
        exact polyFits_nil s.cfg
      genFits := hC ▸ polyFits_nil s.cfg
      fieldOn := fun hfv => by rw [hF] at hfv; cases hfv
      fieldOff := fun _ => by rw [hF]; exact ⟨rfl, rfl⟩
      codeOn := fun hcv => by rw [hC] at hcv; cases hcv
      codeOff := fun _ => hC
      errOn := fun he => ⟨rfl, (h.errOn he).2⟩
      busyNotDone := fun hp => absurd rfl hp
      clearing := nofun }

theorem inv_engineTurn {t : State} (h : s.Inv) (hx : engineTurn s = .next t) : t.Inv := by
  cases hp : s.phase with
  | idle =>
    rw [engineTurn_of_idle hp] at hx
    cases hx
    exact h
  | resetClear =>
    rw [engineTurn_of_clear hp] at hx
    cases hx
    exact inv_endClear h hp
  | executing =>
    rw [engineTurn_of_executing hp] at hx
    exact inv_runLatched h hx

/-! ### Host accesses and resets -/

theorem inv_resetEngine (h : s.Inv) : s.resetEngine.Inv := inv_unread (resetOf_inv h.cfgValid)

theorem inv_clearError (h : s.Inv) : s.clearError.Inv := by
  obtain ⟨-, hs⟩ | ⟨-, hs⟩ := clearError_cases s
  · rw [hs]
    exact { h with errOff := fun _ => ⟨rfl, rfl⟩, errOn := nofun }
  · rwa [hs]

theorem inv_writeCtrl (h : s.Inv) (v : Word) : (s.writeCtrl v).Inv := by
  rw [State.writeCtrl]
  split
  · exact inv_resetEngine h
  · refine inv_unread ?_
    split
    · exact inv_clearError h
    · exact h

theorem inv_writeStatus (h : s.Inv) (v : Word) : (s.writeStatus v).Inv :=
  { h with busyNotDone := fun hp => by simp [State.writeStatus, h.busyNotDone hp] }

theorem inv_accept (h : s.Inv) (he : s.err = false) (w : Word) : (s.accept w).Inv :=
  { h with
    errOn := fun he' => Bool.noConfusion (he.symm.trans he')
    busyNotDone := fun _ => rfl
    clearing := nofun }

theorem inv_writeReg (h : s.Inv) (x : WindowReg) (v : Word) : (s.writeReg x v).Inv := by
  obtain hs | hs | hs | hs | hs := writeReg_cases s x v <;> rw [hs]
  · exact h
  · exact inv_writeCtrl h v
  · exact inv_writeStatus h v
  · obtain ⟨-, he, hw⟩ | hw := writeCmd_cases s v
    · exact hw ▸ inv_accept h he v
    · exact hw ▸ inv_unread h
  · obtain ⟨-, hw⟩ | hw := writeDin_cases s v
    · exact hw ▸ inv_unread h
    · exact hw ▸ inv_unread h

theorem inv_busEvent {ev : BusEvent} {t : State} (h : s.Inv) (hx : busEvent ev s = .next t) :
    t.Inv := by
  cases ev with
  | read addr bytes =>
    obtain ⟨-, v, rfl⟩ := hostRead_next hx
    exact inv_unread h
  | write addr bytes v =>
    obtain ⟨-, rfl | rfl⟩ := hostWrite_next hx
    · exact h
    · exact inv_writeReg h _ v
  | reset =>
    cases hx
    exact inv_resetEngine h
  | engine => exact inv_engineTurn h hx

end

/-- Settles O24: a step is the engine's turn or the first event of the agenda, and each keeps the
invariant. -/
theorem stepKeepsTheInvariant : Obligations.StepKeepsTheInvariant := by
  intro s t h hx
  cases ha : s.agenda with
  | nil =>
    rw [step_of_nil ha] at hx
    exact inv_engineTurn h hx
  | cons ev rest =>
    rw [step_of_cons ha] at hx
    exact inv_busEvent (inv_unread h) hx

end Sys2Proof.Machine
end

section
/-! The frame of every command: which registers and which flags its commit can change. -/

namespace Sys2Proof.Machine

open Sys2Proof.Spec

section
variable {i : Instr} {s t : State}

/-! ### Registers -/

theorem readE_writeE_of_ne {d j : EReg} (h : j ≠ d) (v : Elem) : (s.writeE d v).readE j = s.readE j := by
  rw [readE_writeE, if_neg h]

theorem readR_writeR_of_ne {d j : RReg} (h : j ≠ d) (v : Word) : (s.writeR d v).readR j = s.readR j := by
  rw [readR_writeR, if_neg h]

theorem readP_writeP_of_ne {d j : PReg} (h : j ≠ d) (P : Poly) : (s.writeP d P).readP j = s.readP j := by
  rw [readP_writeP, if_neg h]

theorem readE_of_exec (h : exec i s = .next t) {j : EReg} (hj : eDest i ≠ some j) :
    t.readE j = s.readE j := by
  cases commits_of_exec h with
  | elem hd => exact readE_writeE_of_ne (by rintro rfl; exact hj hd) _
  | _ => rfl

theorem readR_of_exec (h : exec i s = .next t) {j : RReg} (hj : rDest i ≠ some j) :
    t.readR j = s.readR j := by
  cases commits_of_exec h with
  | int hd => exact readR_writeR_of_ne (by rintro rfl; exact hj hd) _
  | @polyIntF d _ P _ _ _ hc =>
    exact readR_writeR_of_ne (s := s.writeP d P) (by rintro rfl; exact hj hc) _
  | _ => rfl

theorem readP_of_exec (h : exec i s = .next t) {j : PReg} (hj : j ∉ pDests i) :
    t.readP j = s.readP j := by
  have hw : ∀ {d : PReg} {P : Poly}, pDests i = [d] → (s.writeP d P).readP j = s.readP j := fun hd =>
    readP_writeP_of_ne (fun he => hj (by simp [hd, he])) _
  have hww : ∀ {d c : PReg} {P Q : Poly}, pDests i = [d, c] →
      ((s.writeP d P).writeP c Q).readP j = s.readP j := fun hd =>
    (readP_writeP_of_ne (fun he => hj (by simp [hd, he])) _).trans
      (readP_writeP_of_ne (fun he => hj (by simp [hd, he])) _)
  cases commits_of_exec h with
  | poly hd => exact hw hd
  | polyIntF hd => exact hw hd
  | polys hd => exact hww hd
  | polysF hd => exact hww hd
  | polysOutcome hd => exact hww hd
  | _ => rfl

/-! ### Flags, FIELD, CODE, DOUT and the host's side -/

theorem f_of_exec (h : exec i s = .next t) (hf : t.f ≠ s.f) :
    i.op = .pgz ∨ i.op = .chien ∨ i.op = .corr ∨ i.op = .dec := by
  cases commits_of_exec h with
  | polyIntF _ _ hop => exact hop.imp_right .inl
  | polysF _ hop => exact .inr (.inr (.inl hop))
  | polysOutcome _ hop => exact .inr (.inr (.inr hop))
  | _ => exact absurd rfl hf

theorem dst_of_exec (h : exec i s = .next t) (hd : t.dst ≠ s.dst) : i.op = .dec ∧ t.dst ≠ 3 := by
  cases commits_of_exec h with
  | polysOutcome _ hop => exact ⟨hop, decodeStatus_code_ne _⟩
  | _ => exact absurd rfl hd

theorem field_of_exec (h : exec i s = .next t) (hF : t.field ≠ s.field) :
    i.op = .buildf ∧ t.field.fv = true ∧ t.code.cv = false := by
  cases commits_of_exec h with
  | field hop hfv _ => exact ⟨hop, hfv, rfl⟩
  | _ => exact absurd rfl hF

theorem code_of_exec (h : exec i s = .next t) (hC : t.code ≠ s.code) :
    i.op = .buildf ∨ (i.op = .buildc ∧ t.code.cv = true) := by
  cases commits_of_exec h with
  | field hop => exact .inl hop
  | code hop _ hcv _ => exact .inr ⟨hop, hcv⟩
  | _ => exact absurd rfl hC

theorem dout_of_exec (h : exec i s = .next t) (hd : t.dout ≠ s.dout) :
    i.op = .ste ∨ i.op = .str ∨ i.op = .stpc ∨ i.op = .stpb := by
  cases commits_of_exec h with
  | dout hop => exact hop
  | _ => exact absurd rfl hd

/-- No command writes what the host writes, nor the parameters (10_state.md R38, R41, 20_memory.md R71). -/
theorem hostSide_of_exec (h : exec i s = .next t) :
    t.cfg = s.cfg ∧ t.doneie = s.doneie ∧ t.errie = s.errie ∧ t.ovr = s.ovr ∧ t.din = s.din ∧
    t.latch = s.latch ∧ t.agenda = s.agenda ∧ t.rdata = s.rdata := by
  cases commits_of_exec h <;> exact ⟨rfl, rfl, rfl, rfl, rfl, rfl, rfl, rfl⟩

end

/-- Settles O19, one register file at a time. -/
theorem onlyDestinationRegistersChange : Obligations.OnlyDestinationRegistersChange :=
  fun _ _ _ h => ⟨fun _ => readE_of_exec h, fun _ => readR_of_exec h, fun _ => readP_of_exec h⟩

/-- Settles O20, one piece of state at a time. -/
theorem flagsAndConstructionStateFrame : Obligations.FlagsAndConstructionStateFrame :=
  fun _ _ _ h => ⟨f_of_exec h, dst_of_exec h, field_of_exec h, code_of_exec h, dout_of_exec h,
    hostSide_of_exec h⟩

end Sys2Proof.Machine
end

section
/-! One step on each event of the host: an aligned access in the window, a reset, and the engine's turn at the
end of the reset clear. -/

namespace Sys2Proof.Machine

open Sys2Proof.Spec

section
variable {s : State} {rest : List BusEvent}

/-! ### Aligned accesses of the window (20_memory.md R60, R64) -/

theorem inWindow_offset (c : Params) {off : Nat} (h : off < 256) :
    inWindow c (c.engineBase + off) = true := by
  simp [inWindow, Config.windowBytes, h]

theorem admitted_word {off : Nat} (h : off % 4 = 0) : admitted off 4 = true := by
  simp [admitted, h]

theorem step_write {off : Nat} {v : Word} (h : s.agenda = .write (s.cfg.engineBase + off) 4 v :: rest)
    (hoff : off < 256) (h4 : off % 4 = 0) :
    step s = .next (State.writeReg { s with agenda := rest } (WindowReg.ofOffset off) v) := by
  simp [step_of_cons h, busEvent, hostWrite, inWindow_offset s.cfg hoff, admitted_word h4]

theorem step_read {off : Nat} (h : s.agenda = .read (s.cfg.engineBase + off) 4 :: rest)
    (hoff : off < 256) (h4 : off % 4 = 0) :
    step s = .next { s with agenda := rest, rdata := s.windowRead off } := by
  simp only [step_of_cons h, busEvent, hostRead, inWindow_offset s.cfg hoff, Nat.add_sub_cancel_left,
    admitted_word h4, if_true]
  rfl

theorem step_writeCtrl {v : Word} (h : s.agenda = .write (s.cfg.engineBase + 0x0C) 4 v :: rest) :
    step s = .next (State.writeCtrl { s with agenda := rest } v) :=
  step_write h (by decide) (by decide)

theorem step_writeStatus {v : Word} (h : s.agenda = .write (s.cfg.engineBase + 0x10) 4 v :: rest) :
    step s = .next (State.writeStatus { s with agenda := rest } v) :=
  step_write h (by decide) (by decide)

theorem step_writeCmd {v : Word} (h : s.agenda = .write (s.cfg.engineBase + 0x14) 4 v :: rest) :
    step s = .next (State.writeCmd { s with agenda := rest } v) :=
  step_write h (by decide) (by decide)

theorem step_writeDin {v : Word} (h : s.agenda = .write (s.cfg.engineBase + 0x18) 4 v :: rest) :
    step s = .next (State.writeDin { s with agenda := rest } v) :=
  step_write h (by decide) (by decide)

/-- Only CTRL, STATUS, CMD and DIN act on a write (20_memory.md R65). -/
theorem writeReg_of_inert (s : State) {off : Nat} (v : Word) (hctrl : off ≠ 0x0C)
    (hstatus : off ≠ 0x10) (hcmd : off ≠ 0x14) (hdin : off ≠ 0x18) :
    s.writeReg (WindowReg.ofOffset off) v = s := by
  unfold WindowReg.ofOffset
  split <;> simp_all [State.writeReg]

theorem step_write_inert {off : Nat} {v : Word}
    (h : s.agenda = .write (s.cfg.engineBase + off) 4 v :: rest) (hoff : off < 256) (h4 : off % 4 = 0)
    (hctrl : off ≠ 0x0C) (hstatus : off ≠ 0x10) (hcmd : off ≠ 0x14) (hdin : off ≠ 0x18) :
    step s = .next { s with agenda := rest } := by
  rw [step_write h hoff h4, writeReg_of_inert _ v hctrl hstatus hcmd hdin]

/-- From offset 0x40 on every offset is reserved (20_memory.md R70). -/
theorem ofOffset_of_reserved {off : Nat} (h : 0x40 ≤ off) : WindowReg.ofOffset off = .reserved := by
  unfold WindowReg.ofOffset
  split <;> simp_all

/-! ### Gated reads (10_state.md R33, R36) -/

theorem gated_of_valid {b : Bool} (h : b = true) (v : Word) : gated b v = v := if_pos h

theorem gated_of_not_valid {b : Bool} (h : b = false) (v : Word) : gated b v = 0 :=
  if_neg (Bool.eq_false_iff.mp h)

/-! ### What the acting writes do -/

theorem writeCmd_of_ready {w : Word} (h : s.phase = .idle ∧ s.err = false) :
    s.writeCmd w = s.accept w := if_pos h

theorem writeCmd_of_not_ready {w : Word} (h : ¬ (s.phase = .idle ∧ s.err = false)) :
    s.writeCmd w = s.drop := if_neg h

/-- SRST acts alone, whatever the other bits (70_reset_and_hazards.md R321). -/
theorem writeCtrl_of_srst {v : Word} (h : v.getLsbD 0 = true) : s.writeCtrl v = s.resetEngine := if_pos h

/-- Without SRST a CTRL write clears a latched error where bit 1 says so, and sets the two enables
(10_state.md R38). -/
theorem writeCtrl_of_not_srst {v : Word} (h : v.getLsbD 0 = false) :
    s.writeCtrl v = if v.getLsbD 1 = true ∧ s.err = true
      then { s with doneie := v.getLsbD 2, errie := v.getLsbD 3, err := false, ecode := 0, errcmd := 0 }
      else { s with doneie := v.getLsbD 2, errie := v.getLsbD 3 } := by
  rw [State.writeCtrl, h]
  obtain ⟨he, hs⟩ | ⟨he, hs⟩ := clearError_cases s <;> cases v.getLsbD 1 <;> simp [he, hs]

/-- During the reset clear no error is latched, so such a write sets the two enables alone (log 23). -/
theorem writeCtrl_resetEngine {v : Word} (h : v.getLsbD 0 = false) :
    s.resetEngine.writeCtrl v =
      { s.resetEngine with doneie := v.getLsbD 2, errie := v.getLsbD 3 } :=
  (writeCtrl_of_not_srst h).trans (if_neg fun hc => Bool.false_ne_true hc.2)

theorem writeStatus_eq (s : State) (v : Word) :
    s.writeStatus v = { s with done := if v.getLsbD 1 then false else s.done
                               ovr := if v.getLsbD 3 then false else s.ovr } := by
  rw [State.writeStatus]
  cases v.getLsbD 1 <;> cases v.getLsbD 3 <;> simp

/-! ### Reset -/

theorem step_reset (h : s.agenda = .reset :: rest) :
    step s = .next (State.resetEngine { s with agenda := rest }) := step_of_cons h

theorem step_engine_of_clear (h : s.agenda = .engine :: rest) (hp : s.phase = .resetClear) :
    step s = .next (State.endClear { s with agenda := rest }) := by
  rw [step_of_cons h]
  exact engineTurn_of_clear hp

end

/-- Settles O8: a CMD write is `State.accept` or `State.drop` by whether the engine is ready, and a DIN write is
`State.writeDin` as it stands. -/
theorem cmdAndDinWritesActOrAreDropped : Obligations.CmdAndDinWritesActOrAreDropped := by
  refine ⟨fun s w rest h => ⟨fun hready => ?_, fun hready => ?_⟩, fun s v rest h => ?_⟩
  · refine ⟨_, (step_writeCmd h).trans ?_, rfl, rfl⟩
    exact congrArg Host.Outcome.next (writeCmd_of_ready hready)
  · refine (step_writeCmd h).trans ?_
    exact congrArg Host.Outcome.next (writeCmd_of_not_ready hready)
  · exact step_writeDin h

/-- Settles O11: every offset but the four that act is inert, and a read keeps the state by definition. -/
theorem readsAndInertOffsets : Obligations.ReadsAndInertOffsets := by
  refine ⟨fun s off hoff h4 => ⟨?_, fun hctrl hstatus hcmd hdin v rest h => ?_⟩,
    fun s off rest hoff h4 h => step_read h hoff h4, fun s => ⟨rfl, rfl, fun he => ?_, fun he => ?_⟩⟩
  · rintro (hres | rfl)
    · rw [State.windowRead, ofOffset_of_reserved hres, State.readReg]
    · rfl
  · exact step_write_inert h hoff h4 hctrl hstatus hcmd hdin
  · exact gated_of_valid he _
  · exact gated_of_not_valid he _

/-- Settles O13: the reset input and SRST are the same operation of the model, `State.resetEngine`. -/
theorem softResetEqualsHardwareReset : Obligations.SoftResetEqualsHardwareReset := by
  intro s v rest hv
  refine ⟨State.resetEngine { s with agenda := rest }, step_reset rfl, ?_, ?_⟩
  · refine (step_writeCtrl (rest := rest) rfl).trans ?_
    exact congrArg Host.Outcome.next (writeCtrl_of_srst hv)
  · simp [State.readE, State.readR, State.readP, FieldState.reset, CodeState.reset, State.busy, State.irq]

/-- Settles O14: the reset clear ends in `State.endClear` of the reset state, with what a write during it
left in OVR, DONEIE and ERRIE. -/
theorem resetClearEndsInTheIdleResetState : Obligations.ResetClearEndsInTheIdleResetState := by
  refine ⟨fun s h => ?_, fun s v hv h => ?_, fun s off v hoff h => ?_⟩
  · refine ⟨_, _, step_reset h, rfl, step_engine_of_clear rfl rfl, ?_⟩
    simp [State.readE, State.readR, State.readP, FieldState.reset, CodeState.reset, State.busy, State.irq,
      State.windowRead, WindowReg.ofOffset, State.readReg, State.ctrlWord, bitAt]
  · have hw := writeCtrl_resetEngine (s := { s with agenda := [.engine] }) hv
    refine ⟨_, _, _, step_reset h, (step_writeCtrl rfl).trans (congrArg Host.Outcome.next hw),
      step_engine_of_clear rfl rfl, ?_⟩
    simp [State.busy, State.irq]
  · obtain rfl | rfl := hoff <;>
      exact ⟨_, _, _, step_reset h, step_write rfl (by decide) (by decide),
        step_engine_of_clear rfl rfl, rfl, rfl, rfl, rfl, rfl⟩

end Sys2Proof.Machine
end

section
/-! STATUS, CTRL and PARAMS, field by field (10_state.md R37-R39). -/

namespace Sys2Proof.Machine

open Sys2Proof.Spec

/-! ### Fields of a word -/

theorem bits_eq_toNat_extractLsb' (w : Word) (hi lo : Nat) :
    bits w hi lo = (w.extractLsb' lo (hi + 1 - lo)).toNat := by
  rw [bits, BitVec.extractLsb'_toNat, Nat.shiftRight_eq_div_pow]

/-- A field is the number whose bits it holds. -/
theorem bits_eq_toNat {w : Word} {hi lo n : Nat} (v : BitVec n) (hn : n = hi + 1 - lo)
    (h : ∀ i, i < n → w.getLsbD (lo + i) = v.getLsbD i) : bits w hi lo = v.toNat := by
  subst hn
  rw [bits_eq_toNat_extractLsb']
  refine congrArg BitVec.toNat (BitVec.eq_of_getLsbD_eq fun i hi => ?_)
  simp [hi, h i hi]

theorem bits_eq_zero {w : Word} {hi lo : Nat}
    (h : ∀ i, i < hi + 1 - lo → w.getLsbD (lo + i) = false) : bits w hi lo = 0 :=
  (bits_eq_toNat 0 rfl fun i hi => by simp [h i hi]).trans BitVec.toNat_zero

theorem bits_single (w : Word) (k : Nat) : bits w k k = 1 ↔ w.getLsbD k = true := by
  rw [bits, BitVec.getLsbD, Nat.testBit_eq_decide_div_mod_eq, Nat.add_sub_cancel_left, pow_one,
    decide_eq_true_iff]

theorem getLsbD_bitAt {k : Nat} (hk : k < 32) (b : Bool) (j : Nat) :
    (bitAt k b).getLsbD j = (b && decide (j = k)) := by
  cases b with
  | false => simp [bitAt]
  | true =>
    simp only [bitAt, if_true, BitVec.getLsbD_ofNat, Nat.testBit_two_pow, Bool.true_and]
    by_cases hj : j = k
    · simp [hj, hk]
    · simp [hj, Ne.symm hj]

/-- A value placed at bit `k` of a word it fits into. -/
theorem getLsbD_fieldAt {n k : Nat} (hk : n + k ≤ 32) (v : BitVec n) (j : Nat) :
    (v.setWidth 32 <<< k).getLsbD j = (decide (k ≤ j) && v.getLsbD (j - k)) := by
  by_cases hj : k ≤ j ∧ j - k < n
  · have hlt : j < 32 ∧ ¬ j < k ∧ j - k < 32 := by omega
    simp [hj.1, hlt]
  · have hout : k ≤ j → v.getLsbD (j - k) = false := fun hkj =>
      BitVec.getLsbD_of_ge v (j - k) (by omega)
    by_cases hkj : k ≤ j <;> simp_all

/-! ### The words -/

/-- Which state a bit of STATUS shows. -/
theorem getLsbD_statusWord (s : State) (j : Nat) :
    s.statusWord.getLsbD j =
      (s.busy && decide (j = 0) || s.done && decide (j = 1) || s.err && decide (j = 2) ||
       s.ovr && decide (j = 3) || s.f && decide (j = 4) ||
       (decide (5 ≤ j) && s.dst.getLsbD (j - 5)) ||
       s.field.fv && decide (j = 7) || s.code.cv && decide (j = 8) ||
       (decide (16 ≤ j) && s.ecode.getLsbD (j - 16))) := by
  simp only [State.statusWord, BitVec.getLsbD_or, getLsbD_bitAt, getLsbD_fieldAt, Nat.reduceLT,
    Nat.reduceAdd, Nat.reduceLeDiff]

theorem getLsbD_ctrlWord (s : State) (j : Nat) :
    s.ctrlWord.getLsbD j = (s.doneie && decide (j = 2) || s.errie && decide (j = 3)) := by
  simp [State.ctrlWord, getLsbD_bitAt]

theorem busy_iff (s : State) : s.busy = true ↔ s.phase ≠ .idle := by
  simp [State.busy]

/-- STATUS, field by field (10_state.md R39). -/
theorem bits_statusWord (s : State) :
    (bits s.statusWord 0 0 = 1 ↔ s.phase ≠ .idle) ∧ (bits s.statusWord 1 1 = 1 ↔ s.done = true) ∧
    (bits s.statusWord 2 2 = 1 ↔ s.err = true) ∧ (bits s.statusWord 3 3 = 1 ↔ s.ovr = true) ∧
    (bits s.statusWord 4 4 = 1 ↔ s.f = true) ∧ bits s.statusWord 6 5 = s.dst.toNat ∧
    (bits s.statusWord 7 7 = 1 ↔ s.field.fv = true) ∧
    (bits s.statusWord 8 8 = 1 ↔ s.code.cv = true) ∧ bits s.statusWord 15 9 = 0 ∧
    bits s.statusWord 23 16 = s.ecode.toNat ∧ bits s.statusWord 31 24 = 0 := by
  refine ⟨?_, ?_, ?_, ?_, ?_, bits_eq_toNat s.dst rfl fun i hi => ?_, ?_, ?_, bits_eq_zero fun i hi => ?_,
    bits_eq_toNat s.ecode rfl fun i hi => ?_, bits_eq_zero fun i hi => ?_⟩
  all_goals simp only [bits_single, getLsbD_statusWord]
  · simp [busy_iff]
  · simp
  · simp
  · simp
  · simp
  · simp (disch := omega) [decide_eq_false]
  · simp
  · simp
  · simp (disch := omega) [decide_eq_false]
  · simp (disch := omega) [decide_eq_false]
  · simp (disch := omega) [decide_eq_false]

/-- CTRL, field by field: SRST, CLRERR and the reserved bits read 0 (10_state.md R38). -/
theorem bits_ctrlWord (s : State) :
    bits s.ctrlWord 1 0 = 0 ∧ bits s.ctrlWord 31 4 = 0 ∧ (bits s.ctrlWord 2 2 = 1 ↔ s.doneie = true) ∧
    (bits s.ctrlWord 3 3 = 1 ↔ s.errie = true) := by
  refine ⟨bits_eq_zero fun i hi => ?_, bits_eq_zero fun i hi => ?_, ?_, ?_⟩
  all_goals simp only [bits_single, getLsbD_ctrlWord]
  · simp (disch := omega) [decide_eq_false]
  · simp (disch := omega) [decide_eq_false]
  · simp
  · simp

/-- PARAMS shows the three parameters, which fit their fields in a valid build (10_state.md R37). -/
theorem bits_paramsWord {c : Params} (hc : c.Valid) :
    bits (paramsWord c) 7 0 = c.mMax ∧ bits (paramsWord c) 15 8 = c.tMax ∧
    bits (paramsWord c) 31 16 = c.polyLen / 32 := by
  obtain ⟨⟨-, hm⟩, ht, ⟨-, -, hl⟩, -⟩ := hc
  simp only [bits, paramsWord, BitVec.toNat_ofNat]
  omega

/-- Settles O9: the two writes through the equations of `writeCtrl` and `writeStatus`, the two reads field by
field. -/
theorem ctrlAndStatusRegisters : Obligations.CtrlAndStatusRegisters := by
  refine ⟨fun s v rest h hv => ?_, fun s v rest h => ?_, bits_statusWord, bits_ctrlWord⟩
  · exact (step_writeCtrl h).trans (congrArg Host.Outcome.next (writeCtrl_of_not_srst hv))
  · exact (step_writeStatus h).trans (congrArg Host.Outcome.next (writeStatus_eq _ v))

end Sys2Proof.Machine
end

section
/-! GEN is monic, so its degree is that of the generator polynomial BUILDC computed, and GEN_DEG shows it
(10_state.md R35, R36, 43_minpoly_generator.md R187). -/

namespace Sys2Proof.Machine

open Sys2Proof.Spec

/-! ### Monic polynomials -/

/-- Degree `n` with leading coefficient 1, trailing zeros or not. -/
def MonicOf (n : Nat) (P : Poly) : Prop := Poly.coef P n = 1#16 ∧ ∀ j, n < j → Poly.coef P j = 0#16

/-- A multiplication that sends 0 to 0 and 1·1 to 1, as those of GF(2) and of a built field do. -/
structure Arith.KeepsOne (A : Arith) : Prop where
  zero_mul : ∀ x, A.mul 0#16 x = 0#16
  mul_zero : ∀ x, A.mul x 0#16 = 0#16
  one_mul_one : A.mul 1#16 1#16 = 1#16

theorem deg_of_monicOf {n : Nat} {P : Poly} (h : MonicOf n P) : Poly.deg P = n := by
  obtain ⟨hn, hz⟩ := h
  have hlt : n < (Poly.trim P).length := by
    by_contra hle
    have h0 := coef_of_length_le (Nat.not_lt.mp hle)
    rw [coef_trim, hn] at h0
    exact absurd h0 (by decide)
  have hle : (Poly.trim P).length - 1 ≤ n := by
    by_contra hgt
    have hne : Poly.trim P ≠ [] := List.ne_nil_of_length_pos (Nat.zero_lt_of_lt hlt)
    refine lead_trim_ne_zero hne ?_
    rw [Poly.lead, coef_trim]
    exact hz _ (Nat.lt_of_not_le hgt)
  rw [Poly.deg]
  omega

section
variable {A : Arith} (hA : A.KeepsOne)
include hA

theorem coef_mul_cons (a : Elem) (p q : Poly) (j : Nat) :
    Poly.coef (Poly.mul A (a :: p) q) j =
      A.mul a (Poly.coef q j) ^^^ if j < 1 then 0#16 else Poly.coef (Poly.mul A p q) (j - 1) := by
  rw [Poly.mul, coef_add, coef_scale (hA.mul_zero a), coef_shift]

theorem coef_mul_of_zero {p : Poly} (hp : ∀ j, Poly.coef p j = 0#16) (q : Poly) (j : Nat) :
    Poly.coef (Poly.mul A p q) j = 0#16 := by
  induction p generalizing j with
  | nil => rfl
  | cons a p ih =>
    have ha : a = 0#16 := hp 0
    simp [coef_mul_cons hA, ha, hA.zero_mul, ih fun j => hp (j + 1)]

theorem monicOf_mul {m n : Nat} {p q : Poly} (hp : MonicOf m p) (hq : MonicOf n q) :
    MonicOf (m + n) (Poly.mul A p q) := by
  obtain ⟨hqn, hqz⟩ := hq
  induction p generalizing m with
  | nil => exact absurd hp.1 (by decide : (0#16) ≠ 1#16)
  | cons a p ih =>
    obtain ⟨hpm, hpz⟩ := hp
    cases m with
    | zero =>
      have ha : a = 1#16 := hpm
      have hrest := coef_mul_of_zero hA (p := p) (fun j => hpz (j + 1) j.succ_pos) q
      have hcoef : ∀ j, Poly.coef (Poly.mul A (a :: p) q) j = A.mul 1#16 (Poly.coef q j) := fun j => by
        simp [coef_mul_cons hA, ha, hrest]
      rw [Nat.zero_add]
      exact ⟨by rw [hcoef, hqn, hA.one_mul_one], fun j hj => by rw [hcoef, hqz j hj, hA.mul_zero]⟩
    | succ m =>
      obtain ⟨hin, hiz⟩ := ih (m := m) ⟨hpm, fun j hj => hpz (j + 1) (Nat.succ_lt_succ hj)⟩
      have hcoef : ∀ j, n < j →
          Poly.coef (Poly.mul A (a :: p) q) j = Poly.coef (Poly.mul A p q) (j - 1) := fun j hj => by
        rw [coef_mul_cons hA, hqz j hj, hA.mul_zero, if_neg (by omega), BitVec.zero_xor]
      refine ⟨?_, fun j hj => ?_⟩
      · rw [hcoef _ (by omega), show m + 1 + n - 1 = m + n by omega]
        exact hin
      · rw [hcoef _ (by omega)]
        exact hiz _ (by omega)

end

/-! ### The arithmetics of the model -/

theorem gf2_keepsOne : Arith.gf2.KeepsOne where
  zero_mul _ := BitVec.zero_and
  mul_zero _ := BitVec.and_zero
  one_mul_one := by decide

/-- ALOG begins with the power the loop starts from. -/
theorem alogFrom_cons {m k : Nat} {P x : Word} {l : List Elem} (hk : 0 < k)
    (h : alogFrom m P k x = some l) : ∃ l', l = x.setWidth 16 :: l' := by
  obtain ⟨k, rfl⟩ := Nat.exists_eq_succ_of_ne_zero hk.ne'
  rw [alogFrom] at h
  split at h
  · cases h
  · obtain ⟨l', -, rfl⟩ := Option.map_eq_some_iff.mp h
    exact ⟨l', rfl⟩

/-- α^0 = 1 in the tables of a built field, so LOG[1] = 0. -/
theorem alog_log_one {c : Params} {F : FieldState} (h : fieldBuilt c F) :
    F.alogAt 0 = 1#16 ∧ F.logAt 1#16 = 0 := by
  obtain ⟨hm, -, -, htab⟩ := h
  obtain ⟨alog, halog, heq⟩ := Option.map_eq_some_iff.mp htab
  obtain ⟨halogF, hlogF⟩ := Prod.mk.inj heq
  have hpow : 1 < 2 ^ F.deg := Nat.one_lt_two_pow (Nat.one_le_iff_ne_zero.mp hm)
  obtain ⟨l, rfl⟩ := alogFrom_cons (Nat.sub_pos_of_lt hpow) halog
  refine ⟨?_, ?_⟩
  · rw [FieldState.alogAt, ← halogF]
    rfl
  · rw [FieldState.logAt, ← hlogF, logTable]
    simp [hpow, List.getD]

theorem field_keepsOne {c : Params} {F : FieldState} (h : fieldBuilt c F) : F.arith.KeepsOne where
  zero_mul x := show F.mul 0#16 x = 0#16 from if_pos (.inl rfl)
  mul_zero x := show F.mul x 0#16 = 0#16 from if_pos (.inr rfl)
  one_mul_one := by
    obtain ⟨halog, hlog⟩ := alog_log_one h
    simp [FieldState.arith, FieldState.mul, hlog, halog]

/-! ### The generator polynomial -/

theorem monicOf_one : MonicOf 0 [1#16] := ⟨rfl, fun _ hj => coef_of_length_le hj⟩

theorem monicOf_linear (c : Elem) : MonicOf 1 [c, 1#16] := ⟨rfl, fun _ hj => coef_of_length_le hj⟩

theorem monicOf_foldl_linear {A : Arith} (hA : A.KeepsOne) (cs : List Elem) {n : Nat} {M : Poly}
    (hM : MonicOf n M) : ∃ k, MonicOf k (cs.foldl (fun M c => Poly.mul A M [c, 1]) M) := by
  induction cs generalizing n M with
  | nil => exact ⟨n, hM⟩
  | cons c cs ih => exact ih (monicOf_mul hA hM (monicOf_linear c))

section
variable {c : Params} {F : FieldState} (hF : fieldBuilt c F)
include hF

theorem monicOf_minimalPoly (β : Elem) : ∃ n, MonicOf n (minimalPoly F β) :=
  monicOf_foldl_linear (field_keepsOne hF) _ monicOf_one

theorem monicOf_generatorStep {acc : Poly × List Nat} (h : ∃ n, MonicOf n acc.1) (i : Nat) :
    ∃ n, MonicOf n (generatorStep F acc i).1 := by
  rw [generatorStep]
  split
  · exact h
  · obtain ⟨n, hn⟩ := h
    obtain ⟨k, hk⟩ := monicOf_minimalPoly hF (F.alphaPow i)
    exact ⟨n + k, monicOf_mul gf2_keepsOne hn hk⟩

theorem monicOf_generatorPoly (t : Nat) : ∃ n, MonicOf n (generatorPoly F t) := by
  have hfold : ∀ (is : List Nat) (acc : Poly × List Nat), (∃ n, MonicOf n acc.1) →
      ∃ n, MonicOf n (is.foldl (generatorStep F) acc).1 := fun is => by
    induction is with
    | nil => exact fun _ h => h
    | cons i is ih => exact fun acc h => ih _ (monicOf_generatorStep hF h i)
  exact hfold _ _ ⟨0, monicOf_one⟩

end

theorem monicOf_storePoly {c : Params} (hc : c.Valid) {n : Nat} {P : Poly} (h : MonicOf n P)
    (hn : n < c.polyLen) : MonicOf n (storePoly c P) := by
  obtain ⟨hlead, hz⟩ := h
  refine ⟨?_, fun j hj => ?_⟩
  · rw [coef_storePoly, if_pos hn, hlead]
    exact storeElem_of_lt (Nat.one_lt_two_pow (Nat.one_le_iff_ne_zero.mp hc.1.1))
  · rw [coef_storePoly, hz j hj]
    simp

/-- q1 = 2^m - 1 is below POLY_LEN, since m ≤ M_MAX (00_scope.md R7). -/
theorem q1_lt {c : Params} (hc : c.Valid) {F : FieldState} (hF : fieldBuilt c F) :
    F.q1 < c.polyLen ∧ F.q1 < 2 ^ 16 := by
  obtain ⟨⟨-, hmax⟩, -, ⟨hlen, -⟩, -⟩ := hc
  obtain ⟨-, hm, -⟩ := hF
  have hpos : 0 < 2 ^ F.deg := Nat.two_pow_pos _
  have hle : 2 ^ F.deg ≤ 2 ^ c.mMax := Nat.pow_le_pow_right (by decide) hm
  have hle16 : 2 ^ c.mMax ≤ 2 ^ 16 := Nat.pow_le_pow_right (by decide) hmax
  rw [FieldState.q1]
  omega

/-- GEN_DEG holds the degree of GEN: the degree BUILDC found is below POLY_LEN and fits 32 bits. -/
theorem genDeg_toNat {s : State} (h : s.Inv) (hcv : s.code.cv = true) :
    (s.code.genDeg.toNat : Int) = Poly.deg s.code.gen := by
  obtain ⟨hfv, hk, hkn, hn, -, -, hdeg, hgen, hgenDeg⟩ := h.codeOn hcv
  have hF := h.fieldOn hfv
  obtain ⟨d, hd⟩ := monicOf_generatorPoly hF s.code.tNat
  rw [deg_of_monicOf hd] at hdeg hgenDeg
  have hq1 := q1_lt h.cfgValid hF
  have hdlt : d < s.cfg.polyLen ∧ d < 2 ^ 16 := by omega
  rw [hgen, deg_of_monicOf (monicOf_storePoly h.cfgValid hd hdlt.1), hgenDeg, degWord,
    BitVec.ofInt_natCast, BitVec.toNat_ofNat, Nat.mod_eq_of_lt (by omega)]

theorem toNat_bitAt_zero (b : Bool) : (bitAt 0 b).toNat = b.toNat := by
  cases b <;> rfl

/-- Settles O10: the gated registers are conditionals on FV and CV, and GEN_DEG is `genDeg_toNat`. -/
theorem identificationAndGatedRegisters : Obligations.IdentificationAndGatedRegisters := by
  refine ⟨fun s hc => ?_, fun s h => ⟨fun hfv => ?_, fun hfv => ?_, fun hcv => ?_, fun hcv => ?_⟩⟩
  · obtain ⟨hm, ht, hl⟩ := bits_paramsWord hc
    refine ⟨rfl, rfl, hm, ht, hl, fun off h4 hoff v rest hw => ?_⟩
    exact step_write_inert hw (by omega) h4 (by omega) (by omega) (by omega) (by omega)
  · exact ⟨gated_of_valid hfv _, gated_of_valid hfv _⟩
  · exact ⟨gated_of_not_valid hfv _, gated_of_not_valid hfv _⟩
  · refine ⟨gated_of_valid hcv _, gated_of_valid hcv _, gated_of_valid hcv _, ?_, ?_⟩
    · exact (congrArg BitVec.toNat (gated_of_valid hcv _)).trans (toNat_bitAt_zero _)
    · refine Eq.trans ?_ (genDeg_toNat h hcv)
      exact congrArg (fun w : Word => (w.toNat : Int)) (gated_of_valid hcv _)
  · exact ⟨gated_of_not_valid hcv _, gated_of_not_valid hcv _, gated_of_not_valid hcv _,
      gated_of_not_valid hcv _, gated_of_not_valid hcv _⟩

end Sys2Proof.Machine
end

section
/-! The accesses that are not admitted, and the engine's turn on an accepted command (20_memory.md R60, R64, R66,
R67). -/

namespace Sys2Proof.Machine

section
variable {s : State} {rest : List BusEvent} {v : Word}

/-! ### Accesses that are not admitted or outside the window -/

theorem not_admitted {off bytes : Nat} (h : bytes ≠ 4 ∨ off % 4 ≠ 0) : admitted off bytes = false := by
  rw [admitted, Bool.and_eq_false_iff]
  exact h.imp beq_false_of_ne beq_false_of_ne

theorem not_inWindow {c : Params} {addr : Nat} (h : addr < c.engineBase ∨ c.engineBase + 256 ≤ addr) :
    inWindow c addr = false := by
  rw [inWindow, decide_eq_false_iff_not, Config.windowBytes]
  omega

theorem hostWrite_not_admitted {off bytes : Nat} (hoff : off < 256) (h : bytes ≠ 4 ∨ off % 4 ≠ 0) :
    hostWrite (s.cfg.engineBase + off) bytes v s = .next s := by
  simp [hostWrite, inWindow_offset s.cfg hoff, not_admitted h]

theorem hostRead_not_admitted {off bytes : Nat} (hoff : off < 256) (h : bytes ≠ 4 ∨ off % 4 ≠ 0) :
    hostRead (s.cfg.engineBase + off) bytes s = .next { s with rdata := 0 } := by
  simp [hostRead, inWindow_offset s.cfg hoff, not_admitted h]

theorem hostWrite_outside {addr bytes : Nat}
    (h : addr < s.cfg.engineBase ∨ s.cfg.engineBase + 256 ≤ addr) :
    hostWrite addr bytes v s = .fault (.addressOutsideWindow addr) := by
  simp [hostWrite, not_inWindow h]

theorem hostRead_outside {addr bytes : Nat}
    (h : addr < s.cfg.engineBase ∨ s.cfg.engineBase + 256 ≤ addr) :
    hostRead addr bytes s = .fault (.addressOutsideWindow addr) := by
  simp [hostRead, not_inWindow h]

/-! ### The engine's turn -/

theorem engineTurn_of_decoded {i : Instr} (hp : s.phase = .executing) (hd : decode s.latch = .ok i) :
    engineTurn s = exec i s :=
  (engineTurn_of_executing hp).trans (runLatched_of_ok hd)

/-- Every commit, of a success or of an error, ends in IDLE with DONE = 1 (20_memory.md R67). -/
theorem completes_of_commits {i : Instr} {x : Result} (h : Commits i s x) :
    ∃ t, x = .next t ∧ t.phase = .idle ∧ t.done = true := by
  cases h with
  | _ => exact ⟨_, rfl, rfl, rfl⟩

theorem exec_completes (i : Instr) (s : State) :
    ∃ t, exec i s = .next t ∧ t.phase = .idle ∧ t.done = true :=
  completes_of_commits (exec_commits i s)

/-- A legal and an illegal word both complete, and the host's accesses stay where they were. -/
theorem runLatched_completes (s : State) :
    ∃ t, runLatched s = .next t ∧ t.phase = .idle ∧ t.agenda = s.agenda ∧ t.done = true := by
  cases hd : decode s.latch with
  | error why => exact ⟨_, runLatched_of_error hd, rfl, rfl, rfl⟩
  | ok i =>
    obtain ⟨t, ht, hphase, hdone⟩ := exec_completes i s
    obtain ⟨-, -, -, -, -, -, hagenda, -⟩ := hostSide_of_exec ht
    exact ⟨t, (runLatched_of_ok hd).trans ht, hphase, hagenda, hdone⟩

theorem engineTurn_ends_idle (s : State) :
    ∃ t, engineTurn s = .next t ∧ t.phase = .idle ∧ t.agenda = s.agenda ∧
      (s.phase = .executing → t.done = true) ∧ (s.phase ≠ .executing → t.done = s.done) := by
  cases hp : s.phase with
  | idle => exact ⟨s, engineTurn_of_idle hp, hp, rfl, nofun, fun _ => rfl⟩
  | resetClear => exact ⟨_, engineTurn_of_clear hp, rfl, rfl, nofun, fun _ => rfl⟩
  | executing =>
    obtain ⟨t, ht, hphase, hagenda, hdone⟩ := runLatched_completes s
    exact ⟨t, (engineTurn_of_executing hp).trans ht, hphase, hagenda, fun _ => hdone,
      fun hne => absurd rfl hne⟩

end

/-- Settles O6: a step with an empty agenda, or with the engine's turn first in it, is the engine's turn. -/
theorem stepRunsTheDecodedCommand : Obligations.StepRunsTheDecodedCommand :=
  fun _ _ _ hp hd =>
    ⟨fun ha => (step_of_nil ha).trans (engineTurn_of_decoded hp hd),
      fun ha => (step_of_cons ha).trans (engineTurn_of_decoded hp hd)⟩

/-- Settles O12: the window decides by the first byte alone, then the width and the offset decide. -/
theorem otherAccesses : Obligations.OtherAccesses :=
  ⟨fun _ _ _ _ _ hoff hbad =>
    ⟨fun ha => (step_of_cons ha).trans (hostWrite_not_admitted hoff hbad),
      fun ha => (step_of_cons ha).trans (hostRead_not_admitted hoff hbad)⟩,
    fun _ _ _ _ _ hout =>
    ⟨fun ha => (step_of_cons ha).trans (hostWrite_outside hout),
      fun ha => (step_of_cons ha).trans (hostRead_outside hout)⟩⟩

/-- Settles O16: the engine's turn ends in IDLE from every phase, and every commit sets DONE. -/
theorem engineTurnEndsIdle : Obligations.EngineTurnEndsIdle := by
  refine ⟨fun s ha => ?_, exec_completes⟩
  rw [step_of_nil ha, ← ha]
  exact engineTurn_ends_idle s

end Sys2Proof.Machine
end

section
/-! The host side: what the host's accesses and the interrupt enables own of the state, and that no command
reads or writes it (20_memory.md R71). -/

namespace Sys2Proof.Machine

/-- `s` with another host side: pending accesses, last read word, interrupt enables and OVR. -/
def State.withHostSide (a : List BusEvent) (v : Word) (de ee ov : Bool) (s : State) : State :=
  { s with agenda := a, rdata := v, doneie := de, errie := ee, ovr := ov }

/-- An answer with `g` applied to its next state. -/
def onNext (g : State → State) : Result → Result
  | .next t => .next (g t)
  | .fault r => .fault r
  | .refused r => .refused r

/-- A check that decides alike on both sides carries `g` out of its branches. Every gate is such a check. -/
theorem onNext_ite {g : State → State} {p : Prop} [Decidable p] {x x' y y' : Result}
    (hx : x' = onNext g x) (hy : y' = onNext g y) :
    (if p then x' else y') = onNext g (if p then x else y) := by
  split
  · exact hx
  · exact hy

section
variable (a : List BusEvent) (v : Word) (de ee ov : Bool)

theorem execBuildf_withHostSide (x y : RReg) (s : State) :
    execBuildf x y (s.withHostSide a v de ee ov) =
      onNext (State.withHostSide a v de ee ov) (execBuildf x y s) := by
  refine onNext_ite rfl (onNext_ite rfl ?_)
  change (match fieldTables (s.natReg x) (s.readR y) with | none => _ | some tables => _) =
    onNext _ (match fieldTables (s.natReg x) (s.readR y) with | none => _ | some tables => _)
  cases fieldTables (s.natReg x) (s.readR y) <;> rfl

theorem execPgz_withHostSide (d : PReg) (c : RReg) (x : PReg) (s : State) :
    execPgz d c x (s.withHostSide a v de ee ov) =
      onNext (State.withHostSide a v de ee ov) (execPgz d c x s) := by
  refine onNext_ite ?_ rfl
  change (match pgzLocate s.field s.code.tNat (s.projm x) with | some r => _ | none => _) =
    onNext _ (match pgzLocate s.field s.code.tNat (s.projm x) with | some r => _ | none => _)
  cases pgzLocate s.field s.code.tNat (s.projm x) <;> rfl

/-- A command on another host side gives its answer with that host side. Each case follows the checks of its
command; what a branch commits is the same up to the five values. -/
theorem exec_withHostSide (i : Instr) (s : State) :
    exec i (s.withHostSide a v de ee ov) = onNext (State.withHostSide a v de ee ov) (exec i s) := by
  cases i with
  | ldpc | stpc | ldpb | stpb | pget | pset | fadd | fmul | plcm2 | paddm | pevalm | pgcdm | minpoly
  | genrd | chien => exact onNext_ite rfl rfl
  | finv | plcmm | genb | enc | syn => exact onNext_ite (onNext_ite rfl rfl) rfl
  | pmul2 | pdiv2 => exact onNext_ite rfl (onNext_ite rfl rfl)
  | pdivm | corr | dec => exact onNext_ite rfl (onNext_ite (onNext_ite rfl rfl) rfl)
  | pmulm => exact onNext_ite (onNext_ite rfl (onNext_ite rfl rfl)) rfl
  | fpow => exact onNext_ite (onNext_ite (onNext_ite rfl (onNext_ite rfl rfl)) rfl) rfl
  | buildf x y => exact execBuildf_withHostSide a v de ee ov x y s
  | buildc =>
    exact onNext_ite (onNext_ite rfl (onNext_ite rfl (onNext_ite rfl (onNext_ite rfl rfl)))) rfl
  | pgz d c x => exact execPgz_withHostSide a v de ee ov d c x s
  | _ => rfl

end

/-- Settles O21: the answer moves with the host side. -/
theorem commandsDoNotSeeTheHostSide : Obligations.CommandsDoNotSeeTheHostSide :=
  fun i s _ a v de ee ov h =>
    (exec_withHostSide a v de ee ov i s).trans (congrArg (onNext _) h)

end Sys2Proof.Machine
end

section
/-! Thirty-two bit positions of a polynomial register (45_transfer.md R248, R249). -/

namespace Sys2Proof.Machine

open Sys2Proof.Spec

/-! ### A word as the sum of its bits -/

theorem sum_bits_eq_ofBits (n : Nat) (b : Nat → Bool) :
    ((List.range n).map fun i => (b i).toNat * 2 ^ i).sum = Nat.ofBits fun i : Fin n => b i := by
  induction n generalizing b with
  | zero => rfl
  | succ n ih =>
    have hshift : ((List.range n).map fun i => (b (i + 1)).toNat * 2 ^ (i + 1)).sum =
        2 * ((List.range n).map fun i => (b (i + 1)).toNat * 2 ^ i).sum := by
      rw [← List.sum_map_mul_left]
      simp only [pow_succ, Nat.mul_comm, Nat.mul_left_comm]
    rw [List.range_succ_eq_map, List.map_cons, List.sum_cons, List.map_map, Nat.ofBits_succ]
    simp only [Function.comp_def, Nat.succ_eq_add_one, hshift, ih fun i => b (i + 1)]
    simp [Nat.add_comm]

theorem getLsbD_getBits (P : Poly) (w : Nat) {i : Nat} (hi : i < 32) :
    (getBits P w).getLsbD i = (Poly.coef P (32 * w + i)).getLsbD 0 := by
  rw [getBits, sum_bits_eq_ofBits 32 fun i => (Poly.coef P (32 * w + i)).getLsbD 0,
    BitVec.getLsbD_ofNat, decide_eq_true hi, Bool.true_and, Nat.testBit_ofBits_lt _ _ hi]

/-! ### What a register keeps of a coefficient -/

/-- What a register keeps of a coefficient depends on that coefficient alone. -/
theorem coef_storePoly_congr (c : Params) {P Q : Poly} {j : Nat} (h : Poly.coef P j = Poly.coef Q j) :
    Poly.coef (storePoly c P) j = Poly.coef (storePoly c Q) j := by
  rw [coef_storePoly, coef_storePoly, h]

theorem coef_storePoly_of_fits {c : Params} {P : Poly} {j : Nat} (hj : j < c.polyLen)
    (h : (Poly.coef P j).toNat < 2 ^ c.mMax) : Poly.coef (storePoly c P) j = Poly.coef P j := by
  rw [coef_storePoly, if_pos hj, storeElem_of_lt h]

theorem toNat_ite_one_zero (b : Bool) : (if b then 1#16 else 0#16).toNat = b.toNat := by
  cases b <;> rfl

theorem toNat_coef_setBits (P : Poly) (w : Nat) (x : Word) {i : Nat} (hi : i < 32) :
    (Poly.coef (setBits P w x) (32 * w + i)).toNat = (x.getLsbD i).toNat := by
  rw [coef_setBits, if_pos (by omega), Nat.add_sub_cancel_left, toNat_ite_one_zero]

theorem coef_setBits_outside (P : Poly) {w : Nat} (x : Word) {j : Nat}
    (hj : j < 32 * w ∨ 32 * w + 32 ≤ j) : Poly.coef (setBits P w x) j = Poly.coef P j := by
  rw [coef_setBits, if_neg (by omega)]

/-! ### The two commands -/

theorem wroteP_complete (s : State) (d : PReg) (P : Poly) : WroteP s (s.writeP d P).complete d :=
  ⟨rfl, fun _ hi => readP_writeP_of_ne hi P⟩

theorem wroteDout_complete (s : State) (v : Word) : WroteDout s (s.writeDout v).complete := rfl

theorem readP_writeP_complete (s : State) (d : PReg) (P : Poly) :
    (s.writeP d P).complete.readP d = storePoly s.cfg P := by
  rw [readP_congr (s.writeP d P).complete_p, readP_writeP, if_pos rfl]

theorem exec_ldpb {s : State} (d : PReg) {x : RReg} (hw : (s.readR x).toNat < s.cfg.polyLen / 32) :
    exec (.ldpb d x) s =
      .next (s.writeP d (setBits (s.readP d) (s.readR x).toNat s.din)).complete := by
  have hok : s.wordIndexOk (s.natReg x) = true := decide_eq_true hw
  rw [exec, execLdpb, needIndex_of_true hok]
  rfl

theorem exec_stpb {s : State} (a : PReg) {x : RReg} (hw : (s.readR x).toNat < s.cfg.polyLen / 32) :
    exec (.stpb a x) s = .next (s.writeDout (getBits (s.readP a) (s.readR x).toNat)).complete := by
  have hok : s.wordIndexOk (s.natReg x) = true := decide_eq_true hw
  rw [exec, execStpb, needIndex_of_true hok]
  rfl

/-- LDPB sets the 32 positions of its word: they lie inside the register, and a bit fits a coefficient. -/
theorem toNat_coef_store_setBits {c : Params} (hc : c.Valid) (P : Poly) {w : Nat} (x : Word)
    (hw : w < c.polyLen / 32) {i : Nat} (hi : i < 32) :
    (Poly.coef (storePoly c (setBits P w x)) (32 * w + i)).toNat = (x.getLsbD i).toNat := by
  obtain ⟨⟨hm, -⟩, -⟩ := hc
  have hset := toNat_coef_setBits P w x hi
  have hbit : (x.getLsbD i).toNat < 2 ^ c.mMax :=
    (Bool.toNat_lt _).trans_le (Nat.pow_le_pow_right Nat.two_pos hm)
  rw [coef_storePoly_of_fits (by omega) (hset ▸ hbit), hset]

/-- LDPB keeps every other position: the register could hold it before. -/
theorem coef_store_setBits_outside {c : Params} {P : Poly} (hP : polyFits c P) {w : Nat} (x : Word)
    {j : Nat} (hj : j < 32 * w ∨ 32 * w + 32 ≤ j) :
    Poly.coef (storePoly c (setBits P w x)) j = Poly.coef P j := by
  obtain ⟨htrim, hlen, hcoefs⟩ := hP
  rw [coef_storePoly_congr c (coef_setBits_outside P x hj), storePoly_of_fits htrim hlen hcoefs]

/-- Settles O28: LDPB stores `setBits` of its register, STPB moves `getBits` to DOUT. -/
theorem bitPositionTransfers : Obligations.BitPositionTransfers := by
  intro s d a x h hw
  have hread := readP_writeP_complete s d (setBits (s.readP d) (s.readR x).toNat s.din)
  refine ⟨⟨_, exec_ldpb d hw, wroteP_complete s d _, fun i hi => ?_, fun j hj => ?_⟩,
    ⟨_, exec_stpb a hw, wroteDout_complete s _, fun i hi => ?_⟩⟩
  · rw [hread]
    exact toNat_coef_store_setBits h.cfgValid _ s.din hw hi
  · rw [hread]
    exact coef_store_setBits_outside (h.polysFit d) s.din hj
  · rw [State.complete_dout, State.writeDout_dout]
    exact getLsbD_getBits _ _ hi

end Sys2Proof.Machine
end

section
/-! Encoding: a command word is its opcode and five operand fields, and the decoder's checks, the encoder and
the opcode table all speak of those fields (30_encoding.md R91–R101). -/

namespace Sys2Proof

open Sys2Proof.Machine Sys2Proof.Spec

/-! ### A word is its opcode and its operand fields (30_encoding.md R91) -/

/-- The five fields after the opcode, as the encoder's operands. -/
def operandFields (w : Word) : Operands where
  d := (regField w .D).val
  a := (regField w .A).val
  b := (regField w .B).val
  c := (regField w .C).val
  imm := (immField w).toNat

/-- No bit of a word lies outside its fields. -/
theorem word_eq_iff {w v : Word} :
    w = v ↔ opField w = opField v ∧ operandFields w = operandFields v := by
  refine ⟨fun h => h ▸ ⟨rfl, rfl⟩, fun ⟨hop, hx⟩ => ?_⟩
  obtain ⟨hd, ha, hb, hc, hi⟩ := Operands.mk.inj hx
  simp only [opField_val, regField_val, immField_val, fieldShift] at hop hd ha hb hc hi
  exact BitVec.eq_of_toNat_eq (by omega)

theorem operandFields_assemble {op d a b c imm : Nat} (hop : op < 64) (hd : d < 16) (ha : a < 16)
    (hb : b < 16) (hc : c < 16) (hi : imm < 1024) :
    operandFields (assemble op d a b c imm) = ⟨d, a, b, c, imm⟩ := by
  rw [operandFields, regField_D_assemble hop hd ha hb hc hi, regField_A_assemble hop hd ha hb hc hi,
    regField_B_assemble hop hd ha hb hc hi, regField_C_assemble hop hd ha hb hc hi,
    immField_assemble hop hd ha hb hc hi]

theorem opField_encode (i : Instr) : opField (encode i) = i.op.format.code :=
  (Laws.EncodeFields.of_bounds i).1

theorem operandFields_encode (i : Instr) : operandFields (encode i) = i.operands := by
  obtain ⟨-, hd, ha, hb, hc, hi⟩ := Laws.EncodeFields.of_bounds i
  rw [operandFields, hd, ha, hb, hc, hi]

/-! ### What the decoder's checks ask of the fields (30_encoding.md R97–R99) -/

/-- A register field of this class holds a value below the bound. -/
def FieldClass.bound : FieldClass → Nat
  | .unused => 1
  | .poly => 8
  | .elem => 16
  | .int => 16

/-- IMM of this class holds a value below the bound. -/
def ImmClass.bound : ImmClass → Nat
  | .zero => 1
  | .nonsys => 2
  | .simm10 => 1024

/-- Every field holds what its class in this row of the opcode map allows. -/
def Format.InBounds (f : Format) (x : Operands) : Prop :=
  x.d < f.d.bound ∧ x.a < f.a.bound ∧ x.b < f.b.bound ∧ x.c < f.c.bound ∧ x.imm < f.imm.bound

/-- The fields a row of the opcode map accepts. -/
def Format.Admits (f : Format) (x : Operands) : Prop :=
  f.InBounds x ∧ (f.twoDest = true → x.d ≠ x.c)

theorem checkField_eq_none_iff (k : FieldClass) (f : FieldName) (w : Word) :
    checkField k f w = none ↔ (regField w f).val < k.bound := by
  cases k <;> simp [checkField, FieldClass.bound]

theorem checkImm_eq_none_iff (k : ImmClass) (w : Word) :
    checkImm k w = none ↔ (immField w).toNat < k.bound := by
  cases k with
  | zero => simp [checkImm, ImmClass.bound, ← BitVec.toNat_inj]
  | nonsys => simp [checkImm, ImmClass.bound]
  | simm10 => exact iff_of_true rfl (immField w).isLt

theorem checkDest_eq_none_iff (t : Bool) (w : Word) :
    checkDest t w = none ↔ (t = true → (regField w .D).val ≠ (regField w .C).val) := by
  simp [checkDest, Fin.ext_iff]

theorem checkWord_eq_none_iff (f : Format) (w : Word) :
    checkWord f w = none ↔ f.Admits (operandFields w) := by
  simp only [checkWord, Option.or_eq_none_iff, checkField_eq_none_iff, checkImm_eq_none_iff,
    checkDest_eq_none_iff, Format.Admits, Format.InBounds, operandFields, and_assoc]

theorem ofCode_eq_some_iff {n : Nat} {o : Op} : Op.ofCode n = some o ↔ n = o.format.code :=
  ⟨fun h => (code_of_ofCode h).symm, fun h => h ▸ ofCode_code o⟩

/-- Decoding, said once: the opcode picks the row, the row admits the fields, and they are the operands. -/
theorem decode_eq_ok_iff {w : Word} {i : Instr} :
    decode w = .ok i ↔
      ∃ o : Op, opField w = o.format.code ∧ o.format.Admits (operandFields w) ∧ buildInstr o w = i := by
  simp only [← ofCode_eq_some_iff, ← checkWord_eq_none_iff]
  rw [decode]
  cases Op.ofCode (opField w) with
  | none => simp
  | some o => cases h : checkWord o.format w <;> simp [h]

theorem exists_decode_eq_ok_iff {w : Word} :
    (∃ i, decode w = .ok i) ↔
      ∃ o : Op, opField w = o.format.code ∧ o.format.Admits (operandFields w) := by
  simp only [decode_eq_ok_iff]
  exact ⟨fun ⟨_, o, hop, hadm, _⟩ => ⟨o, hop, hadm⟩, fun ⟨o, hop, hadm⟩ => ⟨_, o, hop, hadm, rfl⟩⟩

/-! ### Operands against fields, command by command -/

/-- The bounds hold by the operands' types, so R99 is the one check a term can fail. -/
theorem admits_operands_iff (i : Instr) :
    i.op.format.Admits i.operands ↔ i.wellFormed = true := by
  cases i with
  | li d imm =>
    exact iff_of_true ⟨⟨d.isLt, Nat.one_pos, Nat.one_pos, Nat.one_pos, imm.isLt⟩, nofun⟩ rfl
  | buildc a b c ns =>
    exact iff_of_true ⟨⟨Nat.one_pos, a.isLt, b.isLt, c.isLt, Bool.toNat_lt ns⟩, nofun⟩ rfl
  | _ =>
    simp [Format.Admits, Format.InBounds, Instr.op, Op.format, Instr.operands, Instr.wellFormed,
      FieldClass.bound, ImmClass.bound, Fin.val_inj]

theorem op_buildInstr (o : Op) (w : Word) : (buildInstr o w).op = o := by
  cases o <;> rfl

theorem polyIndex_val_of_lt {x : Fin 16} (h : x.val < 8) : (polyIndex x).val = x.val :=
  Nat.mod_eq_of_lt h

theorem polyIndex_of_val_eq {x : Fin 16} {p : PReg} (h : x.val = p.val) : polyIndex x = p :=
  Fin.ext ((polyIndex_val_of_lt (h ▸ p.isLt)).trans h)

/-- BUILDC's IMM is its bit 0 (30_encoding.md R93). -/
theorem getElem_zero_eq_iff {x : BitVec 10} {b : Bool} (h : x.toNat < 2) :
    x[0] = b ↔ x.toNat = b.toNat := by
  have hbit : x[0] = decide (x.toNat = 1) := by
    simp [BitVec.getElem_eq_testBit_toNat, Nat.testBit_zero, Nat.mod_eq_of_lt h]
  rw [hbit]
  cases b <;> simp
  omega

/-- The built command's operands are the fields: an unused field is 0 and a poly field is below 8. -/
theorem operands_buildInstr {o : Op} {w : Word} (h : o.format.InBounds (operandFields w)) :
    (buildInstr o w).operands = operandFields w := by
  obtain ⟨hd, ha, hb, hc, hi⟩ := h
  cases o with
  | buildc =>
    have hns := (getElem_zero_eq_iff hi).mp rfl
    simp_all [buildInstr, Instr.operands, operandFields, Op.format, FieldClass.bound]
  | _ =>
    simp_all [buildInstr, Instr.operands, operandFields, Op.format, FieldClass.bound, ImmClass.bound,
      polyIndex_val_of_lt]

/-- A command is determined by its opcode and its field values, BUILDC's form by bit 0 of IMM. -/
theorem buildInstr_of_operandFields {w : Word} {i : Instr} (h : operandFields w = i.operands) :
    buildInstr i.op w = i := by
  obtain ⟨hd, ha, hb, hc, hi⟩ := Operands.mk.inj h
  cases i with
  | buildc a b c ns =>
    have hns := (getElem_zero_eq_iff (hi ▸ Bool.toNat_lt ns)).mpr hi
    simp_all [buildInstr, Instr.op, Instr.operands, Fin.val_inj]
  | _ =>
    simp_all [buildInstr, Instr.op, Instr.operands, polyIndex_of_val_eq, Fin.val_inj, BitVec.toNat_inj]

/-- Settles O1: the word's opcode picks the command's own row, and its fields build the command again. -/
theorem decodeOfEncodeIsTheCommand : Obligations.DecodeOfEncodeIsTheCommand := by
  intro i hwf
  have hfields := operandFields_encode i
  refine decode_eq_ok_iff.mpr ⟨i.op, opField_encode i, ?_, buildInstr_of_operandFields hfields⟩
  rw [hfields]
  exact (admits_operands_iff i).mpr hwf

/-- Settles O2: the built command has the word's opcode and the word's fields as its operands. -/
theorem encodeOfDecodeIsTheWord : Obligations.EncodeOfDecodeIsTheWord := by
  intro w i h
  obtain ⟨o, hop, hadm, rfl⟩ := decode_eq_ok_iff.mp h
  have hoperands := operands_buildInstr hadm.1
  refine ⟨(admits_operands_iff _).mp ?_, word_eq_iff.mpr ⟨?_, ?_⟩⟩
  · rwa [op_buildInstr, hoperands]
  · rw [opField_encode, op_buildInstr, hop]
  · rw [operandFields_encode, hoperands]

/-! ### The rows of spec/opcode_table.json -/

/-- The field bits a class requires to be 0. -/
def FieldClass.mask : FieldClass → Nat
  | .unused => 15
  | .poly => 8
  | .elem => 0
  | .int => 0

/-- The IMM bits a class requires to be 0. -/
def ImmClass.mask : ImmClass → Nat
  | .zero => 0x3FF
  | .nonsys => 0x3FE
  | .simm10 => 0

/-- The (match, mask) pair of a row of the opcode map. -/
def Format.row (f : Format) : Word × Word :=
  (assemble f.code 0 0 0 0 0, assemble 63 f.d.mask f.a.mask f.b.mask f.c.mask f.imm.mask)

theorem mem_opAll (o : Op) : o ∈ Op.all := by
  cases o <;> decide

/-- spec/opcode_table.json is the opcode map, written as matches and masks (30_encoding.md R95). -/
theorem opcodeRows_eq : opcodeRows = Op.all.map fun o => o.format.row := by
  decide

theorem mem_opcodeRows {row : Word × Word} : row ∈ opcodeRows ↔ ∃ o : Op, o.format.row = row := by
  simp [opcodeRows_eq, mem_opAll]

theorem match_mem_twoDestMatches (o : Op) :
    o.format.row.1 ∈ twoDestMatches ↔ o.format.twoDest = true := by
  cases o <;> decide

theorem FieldClass.mask_lt (k : FieldClass) : k.mask < 16 := by
  cases k <;> decide

theorem ImmClass.mask_lt (k : ImmClass) : k.mask < 1024 := by
  cases k <;> decide

theorem FieldClass.and_mask_eq_zero_iff (k : FieldClass) (x : Fin 16) :
    x.val &&& k.mask = 0 ↔ x.val < k.bound := by
  cases k <;> revert x <;> decide

/-- BUILDC's mask keeps every bit of IMM but bit 0. -/
theorem and_0x3FE_eq {n : Nat} (h : n < 1024) : n &&& 0x3FE = n / 2 * 2 := by
  have hhalf : (n &&& 0x3FE) / 2 = n / 2 :=
    Nat.and_div_two.trans (Nat.and_two_pow_sub_one_of_lt_two_pow (n := 9) (by omega))
  have heven : (n &&& 0x3FE) % 2 = 0 := (Nat.and_mod_two_pow (n := 1)).trans (Nat.and_zero _)
  omega

theorem ImmClass.and_mask_eq_zero_iff (k : ImmClass) (x : BitVec 10) :
    x.toNat &&& k.mask = 0 ↔ x.toNat < k.bound := by
  cases k with
  | zero =>
    rw [mask, Nat.and_two_pow_sub_one_of_lt_two_pow (n := 10) x.isLt, bound, Nat.lt_one_iff]
  | nonsys =>
    rw [mask, and_0x3FE_eq x.isLt, bound]
    omega
  | simm10 => exact iff_of_true (Nat.and_zero _) x.isLt

theorem opField_and (w v : Word) : opField (w &&& v) = opField w &&& opField v := by
  simp [opField, BitVec.extractLsb'_and]

theorem regField_and (w v : Word) (f : FieldName) :
    (regField (w &&& v) f).val = (regField w f).val &&& (regField v f).val := by
  cases f <;> simp [regField, BitVec.extractLsb'_and]

theorem immField_and (w v : Word) :
    (immField (w &&& v)).toNat = (immField w).toNat &&& (immField v).toNat := by
  simp [immField, BitVec.extractLsb'_and]

theorem opField_and_mask (w : Word) (f : Format) : opField (w &&& f.row.2) = opField w := by
  have hmask : opField f.row.2 = 63 := opField_assemble (by decide) f.d.mask_lt f.a.mask_lt f.b.mask_lt
    f.c.mask_lt f.imm.mask_lt
  have hlt : opField w < 2 ^ 6 := BitVec.isLt _
  rw [opField_and, hmask, Nat.and_two_pow_sub_one_of_lt_two_pow hlt]

/-- A row's mask leaves no operand bit exactly where every field holds what its class allows. -/
theorem operandFields_and_mask_iff (w : Word) (f : Format) :
    operandFields (w &&& f.row.2) = {} ↔ f.InBounds (operandFields w) := by
  have hmask : operandFields f.row.2 = ⟨f.d.mask, f.a.mask, f.b.mask, f.c.mask, f.imm.mask⟩ :=
    operandFields_assemble (by decide) f.d.mask_lt f.a.mask_lt f.b.mask_lt f.c.mask_lt f.imm.mask_lt
  obtain ⟨hd, ha, hb, hc, hi⟩ := Operands.mk.inj hmask
  simp only [operandFields, regField_and, immField_and, hd, ha, hb, hc, hi, Operands.mk.injEq,
    FieldClass.and_mask_eq_zero_iff, ImmClass.and_mask_eq_zero_iff, Format.InBounds]

theorem and_mask_eq_match_iff (w : Word) (o : Op) :
    w &&& o.format.row.2 = o.format.row.1 ↔
      opField w = o.format.code ∧ o.format.InBounds (operandFields w) := by
  have hcode := format_code_lt o
  have hop : opField o.format.row.1 = o.format.code :=
    opField_assemble hcode (by decide) (by decide) (by decide) (by decide) (by decide)
  have hoperands : operandFields o.format.row.1 = {} :=
    operandFields_assemble hcode (by decide) (by decide) (by decide) (by decide) (by decide)
  rw [word_eq_iff, opField_and_mask, hop, hoperands, operandFields_and_mask_iff]

theorem bits_D (w : Word) : bits w 25 22 = (operandFields w).d := (regField_val w .D).symm

theorem bits_C (w : Word) : bits w 13 10 = (operandFields w).c := (regField_val w .C).symm

/-- Settles O3: the table is the opcode map written as masks, and a mask asks for the decoder's bounds. -/
theorem decoderAcceptsExactlyTheOpcodeTable : Obligations.DecoderAcceptsExactlyTheOpcodeTable := by
  intro w
  simp only [exists_decode_eq_ok_iff, mem_opcodeRows, exists_exists_eq_and, and_mask_eq_match_iff,
    match_mem_twoDestMatches, bits_D, bits_C, Format.Admits, and_assoc]

/-- Settles O4: the encodings are computed, and each decodes to its instruction by O1. -/
theorem workedEncodings : Obligations.WorkedEncodings := by
  have hboth : ∀ {w : Word} {i : Instr}, encode i = w → i.wellFormed = true →
      decode w = .ok i ∧ encode i = w :=
    fun he hwf => ⟨he ▸ decodeOfEncodeIsTheCommand _ hwf, he⟩
  exact ⟨hboth (by decide) rfl, hboth (by decide) rfl, hboth (by decide) rfl⟩

end Sys2Proof
end

section
/-! Assembly lines (30_encoding.md R102, R103), and illegal words (R100). -/

namespace Sys2Proof.Machine

open Sys2Proof.Spec

theorem asmLi_of_range (d : RReg) {v : Int} (hlo : -512 ≤ v) (hhi : v ≤ 511) :
    asmLi d v = some (.li d (BitVec.ofInt 10 v)) := if_pos ⟨hlo, hhi⟩

theorem asmLi_toInt (d : RReg) (imm : BitVec 10) : asmLi d imm.toInt = some (.li d imm) := by
  have hlo : -512 ≤ imm.toInt := BitVec.le_toInt imm
  have hhi : imm.toInt < 512 := BitVec.toInt_lt
  rw [asmLi_of_range d hlo (by omega), BitVec.ofInt_toInt]

/-- LI sign-extends its immediate, so it loads the number that was written (45_transfer.md R245). -/
theorem toInt_immOperand_ofInt {v : Int} (hlo : -512 ≤ v) (hhi : v ≤ 511) :
    (immOperand (BitVec.ofInt 10 v)).toInt = v := by
  rw [immOperand, BitVec.toInt_signExtend_of_le (by decide)]
  exact BitVec.toInt_ofInt_eq_self (by decide) hlo (by omega)

/-- Only LI's number and BUILDC's last word are read further than by their kind. -/
theorem assembleLine_asmOf (i : Instr) : assembleLine (asmOf i) = some i := by
  cases i with
  | li d imm => exact asmLi_toInt d imm
  | buildc a b c nonsys => cases nonsys <;> rfl
  | _ => rfl

/-- Settles O5: `assembleLine_asmOf` for the command lines, LI's range for MOVI; the rest holds by definition. -/
theorem assemblyLinesGiveTheirCommands : Obligations.AssemblyLinesGiveTheirCommands :=
  ⟨assembleLine_asmOf, fun _ => rfl,
    fun d _ hlo hhi => ⟨_, asmLi_of_range d hlo hhi, toInt_immOperand_ofInt hlo hhi⟩,
    fun _ => rfl, fun _ _ _ => rfl⟩

theorem decode_eq_error_of_not_ok {w : Word} (h : ∀ i, decode w ≠ .ok i) :
    ∃ why, decode w = .error why := by
  cases hd : decode w with
  | ok i => exact absurd hd (h i)
  | error why => exact ⟨why, rfl⟩

theorem engineTurn_of_illegal {s : State} {why : Illegal} (hp : s.phase = .executing)
    (hd : decode s.latch = .error why) : engineTurn s = .next (erroring s 0x08) :=
  (engineTurn_of_executing hp).trans (runLatched_of_error hd)

theorem step_of_illegal {s : State} {rest : List BusEvent} {why : Illegal}
    (ha : s.agenda = .engine :: rest) (hp : s.phase = .executing) (hd : decode s.latch = .error why) :
    step s = .next { erroring s 0x08 with agenda := rest } :=
  (step_of_cons ha).trans (engineTurn_of_illegal hp hd)

/-- Settles O7: the CMD write is accepted without decoding, and the engine's turn finds the word illegal. -/
theorem illegalWordCompletesWithIllegalInstruction :
    Obligations.IllegalWordCompletesWithIllegalInstruction := by
  refine ⟨fun s w hphase herr hagenda hillegal => ?_, rfl, fun i h => ?_⟩
  · obtain ⟨why, hwhy⟩ := decode_eq_error_of_not_ok hillegal
    have haccept := writeCmd_of_ready (s := { s with agenda := [.engine] }) (w := w) ⟨hphase, herr⟩
    exact ⟨_, (step_writeCmd hagenda).trans (congrArg Host.Outcome.next haccept), rfl,
      step_of_illegal rfl rfl hwhy⟩
  · have hreserved : decode 0xFFFFFFFF = .error .reservedOpcode := by decide
    exact nomatch hreserved.symm.trans h

end Sys2Proof.Machine
end

section
/-! The validity gates: without a field or a code the commands that need one answer before they look at an operand
(60_exceptions.md R281, R287). -/

namespace Sys2Proof.Machine

open Sys2Proof.Spec

section
variable {s : State} {k : Unit → Result}

theorem needField_of_not_fv (h : s.field.fv = false) : needField s k = .next (erroring s 0x09) :=
  if_neg (Bool.eq_false_iff.mp h)

theorem needCode_of_not_cv (h : s.code.cv = false) : needCode s k = .next (erroring s 0x0A) :=
  if_neg (Bool.eq_false_iff.mp h)

/-- A well-formed command with two destinations passes the D ≠ C gate, which stands before the validity gate. -/
theorem needDistinct_of_wellFormed {d c : PReg} (hw : (d != c) = true) : needDistinct d c s k = k () :=
  needDistinct_of_ne (bne_iff_ne.mp hw)

end

theorem exec_of_field_not_built {i : Instr} {s : State} (hw : i.wellFormed = true)
    (hi : needsFieldBuilt i = true) (h : s.field.fv = false) : exec i s = .next (erroring s 0x09) := by
  unfold exec
  cases i with
  | fadd | fmul | finv | fpow | paddm | pmulm | pevalm | pgcdm | plcmm | minpoly | genb | buildc =>
    exact needField_of_not_fv h
  | pdivm d c a b => exact (needDistinct_of_wellFormed hw).trans (needField_of_not_fv h)
  | _ => exact Bool.noConfusion hi

theorem exec_of_code_not_built {i : Instr} {s : State} (hw : i.wellFormed = true)
    (hi : needsCodeBuilt i = true) (h : s.code.cv = false) : exec i s = .next (erroring s 0x0A) := by
  unfold exec
  cases i with
  | genrd | enc | syn | pgz | chien => exact needCode_of_not_cv h
  | corr | dec => exact (needDistinct_of_wellFormed hw).trans (needCode_of_not_cv h)
  | _ => exact Bool.noConfusion hi

/-- Settles O18: each command's first gate that a well-formed command can fail is its validity gate. -/
theorem validityGatesComeFirst : Obligations.ValidityGatesComeFirst :=
  fun _ _ hw => ⟨exec_of_field_not_built hw, exec_of_code_not_built hw⟩

end Sys2Proof.Machine
end
section
/-! Multiplication modulo P on numbers (40_field.md R122, R124): `timesX` and `mulMod` are linear over XOR, so they are
known from the powers of 2, where `mulMod` is symmetric; hence multiplying by x^i is `timesX` i times. -/

namespace Sys2Proof.Machine

open Sys2Proof.Spec

/-! ### Functions that are linear over XOR -/

/-- The sum in GF(2)[x] is XOR on numbers; `f` keeps it. -/
def XorLinear (f : Nat → Nat) : Prop := ∀ u v, f (u ^^^ v) = f u ^^^ f v

theorem XorLinear.map_zero {f : Nat → Nat} (hf : XorLinear f) : f 0 = 0 := by
  have h := hf 0 0
  rwa [Nat.xor_self, Nat.xor_self] at h

theorem XorLinear.xor {f g : Nat → Nat} (hf : XorLinear f) (hg : XorLinear g) :
    XorLinear fun v => f v ^^^ g v := by
  intro u v
  simp only [hf u v, hg u v]
  ac_rfl

theorem XorLinear.iterate {f : Nat → Nat} (hf : XorLinear f) (n : Nat) : XorLinear f^[n] := by
  induction n with
  | zero => exact fun _ _ => rfl
  | succ n ih => exact fun u v => by simp only [Function.iterate_succ_apply', ih u v, hf (f^[n] u)]

theorem xorLinear_zero : XorLinear fun _ => 0 := fun _ _ => (Nat.xor_self 0).symm

/-- Choosing between a number and 0 by a bit is linear in the number that holds the bit. -/
theorem xorLinear_ite_testBit (j c : Nat) : XorLinear fun v => if v.testBit j then c else 0 := by
  intro u v
  simp only [Nat.testBit_xor]
  cases u.testBit j <;> cases v.testBit j <;> simp

/-- Linear functions that agree on the powers of 2 below 2^m agree below 2^m: a number is its top power of 2
and what is left. -/
theorem XorLinear.eq_of_two_pow {f g : Nat → Nat} (hf : XorLinear f) (hg : XorLinear g) {m : Nat}
    (h : ∀ j, j < m → f (2 ^ j) = g (2 ^ j)) {v : Nat} (hv : v < 2 ^ m) : f v = g v := by
  induction m generalizing v with
  | zero =>
    obtain rfl : v = 0 := by simpa using hv
    rw [hf.map_zero, hg.map_zero]
  | succ m ih =>
    have hlow {w : Nat} (hw : w < 2 ^ m) : f w = g w := ih (fun j hj => h j (Nat.lt_succ_of_lt hj)) hw
    rcases Nat.lt_or_ge v (2 ^ m) with hlt | hge
    · exact hlow hlt
    · have hpos : 0 < 2 ^ m := Nat.two_pow_pos m
      have htop : v / 2 ^ m = 1 := Nat.div_eq_of_lt_le (by omega) (by omega)
      have hrest : 2 ^ m ^^^ v < 2 ^ m := by
        rw [← Nat.div_eq_zero_iff_lt hpos, Nat.xor_div_two_pow, htop, Nat.div_self hpos, Nat.xor_self]
      rw [← Nat.xor_xor_cancel_left (2 ^ m) v, hf, hg, h m m.lt_succ_self, hlow hrest]

/-! ### Multiplication by x -/

theorem timesX_eq (m P v : Nat) : timesX m P v = 2 * v ^^^ if (2 * v).testBit m then P else 0 := by
  rw [timesX]
  split <;> simp

theorem double_linear : XorLinear (2 * ·) := fun u v => by
  simpa [Nat.shiftLeft_eq, Nat.mul_comm] using Nat.shiftLeft_xor_distrib (i := 1) (a := u) (b := v)

theorem timesX_linear (m P : Nat) : XorLinear (timesX m P) := by
  intro u v
  simp only [timesX_eq, double_linear u v, xorLinear_ite_testBit m P (2 * u)]
  ac_rfl

/-- Below x^m nothing is reduced, so the powers of x start as the powers of 2. -/
theorem alphaPower_of_lt {m P j : Nat} (hj : j < m) : alphaPower m P j = 2 ^ j := by
  induction j with
  | zero => rfl
  | succ j ih =>
    have hbit : (2 * 2 ^ j).testBit m = false := by
      rw [← Nat.pow_succ', Nat.testBit_two_pow]
      exact decide_eq_false hj.ne
    rw [alphaPower, Function.iterate_succ_apply', ← alphaPower, ih (Nat.lt_of_succ_lt hj), timesX, hbit,
      Nat.pow_succ']
    rfl

theorem iterate_timesX_alphaPower (m P i j : Nat) :
    (timesX m P)^[i] (alphaPower m P j) = alphaPower m P (i + j) :=
  (Function.iterate_add_apply _ i j 1).symm

section
variable {m P : Nat} (hP : P / 2 ^ m = 1)
include hP

/-- The reduction removes the bit that came out (40_field.md R122). -/
theorem timesX_lt {v : Nat} (hv : v < 2 ^ m) : timesX m P v < 2 ^ m := by
  have hpos : 0 < 2 ^ m := Nat.two_pow_pos m
  rw [timesX]
  rcases Nat.lt_or_ge (2 * v) (2 ^ m) with hlt | hge
  · simp [Nat.testBit_lt_two_pow hlt, hlt]
  · have htop : 2 * v / 2 ^ m = 1 := Nat.div_eq_of_lt_le (by omega) (by omega)
    rw [Nat.testBit_eq_decide_div_mod_eq, htop, ← Nat.div_eq_zero_iff_lt hpos]
    simp [Nat.xor_div_two_pow, htop, hP]

theorem iterate_timesX_lt (n : Nat) {v : Nat} (hv : v < 2 ^ m) : (timesX m P)^[n] v < 2 ^ m := by
  induction n with
  | zero => exact hv
  | succ n ih =>
    rw [Function.iterate_succ_apply']
    exact timesX_lt hP ih

theorem alphaPower_lt (hm : 0 < m) (j : Nat) : alphaPower m P j < 2 ^ m :=
  iterate_timesX_lt hP j (Nat.one_lt_two_pow hm.ne')

end

/-! ### Multiplication -/

/-- The sum of x^j·b over the set bits j < n of a; `mulMod` has n = m. -/
def mulModBelow (m P n a b : Nat) : Nat :=
  (List.range n).foldl (fun v j => if a.testBit j then v ^^^ (timesX m P)^[j] b else v) 0

theorem mulMod_eq (m P a b : Nat) : mulMod m P a b = mulModBelow m P m a b := rfl

theorem mulModBelow_succ (m P n a b : Nat) : mulModBelow m P (n + 1) a b =
    mulModBelow m P n a b ^^^ if a.testBit n then (timesX m P)^[n] b else 0 := by
  simp only [mulModBelow, List.range_succ, List.foldl_append, List.foldl_cons, List.foldl_nil]
  split <;> simp

theorem mulModBelow_linear_left (m P n b : Nat) : XorLinear fun a => mulModBelow m P n a b := by
  induction n with
  | zero => exact xorLinear_zero
  | succ n ih =>
    simp only [mulModBelow_succ]
    exact ih.xor (xorLinear_ite_testBit n _)

theorem mulModBelow_linear_right (m P n a : Nat) : XorLinear (mulModBelow m P n a) := by
  induction n with
  | zero => exact xorLinear_zero
  | succ n ih =>
    rw [show mulModBelow m P (n + 1) a = _ from funext (mulModBelow_succ m P n a)]
    refine ih.xor ?_
    split
    · exact (timesX_linear m P).iterate n
    · exact xorLinear_zero

theorem mulMod_zero_left (m P b : Nat) : mulMod m P 0 b = 0 := (mulModBelow_linear_left m P m b).map_zero

theorem mulMod_zero_right (m P a : Nat) : mulMod m P a 0 = 0 := (mulModBelow_linear_right m P m a).map_zero

theorem mulMod_xor_left (m P a a' b : Nat) : mulMod m P (a ^^^ a') b = mulMod m P a b ^^^ mulMod m P a' b :=
  mulModBelow_linear_left m P m b a a'

/-- A power of 2 has one set bit. -/
theorem mulModBelow_two_pow (m P n i b : Nat) :
    mulModBelow m P n (2 ^ i) b = if i < n then (timesX m P)^[i] b else 0 := by
  induction n with
  | zero => rfl
  | succ n ih =>
    rw [mulModBelow_succ, ih, Nat.testBit_two_pow]
    rcases Nat.lt_trichotomy i n with h | rfl | h
    · simp [h, h.ne, Nat.lt_succ_of_lt h]
    · simp
    · simp [h.ne', h.not_gt, Nat.not_lt.mpr (Nat.succ_le_of_lt h)]

theorem mulMod_two_pow {m i : Nat} (hi : i < m) (P b : Nat) :
    mulMod m P (2 ^ i) b = (timesX m P)^[i] b := by
  rw [mulMod_eq, mulModBelow_two_pow, if_pos hi]

/-- The product commutes, because x^i·x^j is x^(i+j) in either order. -/
theorem mulMod_comm {m P a b : Nat} (ha : a < 2 ^ m) (hb : b < 2 ^ m) : mulMod m P a b = mulMod m P b a := by
  refine (mulModBelow_linear_left m P m b).eq_of_two_pow (mulModBelow_linear_right m P m b) (fun i hi => ?_) ha
  refine (mulModBelow_linear_right m P m (2 ^ i)).eq_of_two_pow (mulModBelow_linear_left m P m (2 ^ i))
    (fun j hj => ?_) hb
  calc mulMod m P (2 ^ i) (2 ^ j)
    _ = (timesX m P)^[i] (alphaPower m P j) := by rw [mulMod_two_pow hi, alphaPower_of_lt hj]
    _ = (timesX m P)^[j] (alphaPower m P i) := by
      rw [iterate_timesX_alphaPower, iterate_timesX_alphaPower, Nat.add_comm]
    _ = mulMod m P (2 ^ j) (2 ^ i) := by rw [mulMod_two_pow hj, alphaPower_of_lt hi]

theorem mulModBelow_timesX (m P n a b : Nat) :
    mulModBelow m P n a (timesX m P b) = timesX m P (mulModBelow m P n a b) := by
  induction n with
  | zero => exact (timesX_linear m P).map_zero.symm
  | succ n ih =>
    simp only [mulModBelow_succ, ih, timesX_linear m P (mulModBelow m P n a b), ← Function.iterate_succ_apply,
      Function.iterate_succ_apply']
    split
    · rfl
    · rw [(timesX_linear m P).map_zero]

/-- Multiplying by x^i is multiplying by x, i times. -/
theorem mulMod_alphaPower {m P : Nat} (hm : 0 < m) (hP : P / 2 ^ m = 1) (i : Nat) {b : Nat}
    (hb : b < 2 ^ m) : mulMod m P (alphaPower m P i) b = (timesX m P)^[i] b := by
  induction i with
  | zero => exact mulMod_two_pow hm P b
  | succ i ih =>
    have hlt := alphaPower_lt hP hm
    calc mulMod m P (alphaPower m P (i + 1)) b
      _ = mulMod m P b (timesX m P (alphaPower m P i)) := by
        rw [mulMod_comm (hlt _) hb, alphaPower, Function.iterate_succ_apply', alphaPower]
      _ = timesX m P (mulMod m P (alphaPower m P i) b) := by
        rw [mulMod_eq, mulModBelow_timesX, ← mulMod_eq, mulMod_comm hb (hlt i)]
      _ = (timesX m P)^[i + 1] b := by rw [ih, Function.iterate_succ_apply']

theorem mulMod_alphaPower_alphaPower {m P : Nat} (hm : 0 < m) (hP : P / 2 ^ m = 1) (i j : Nat) :
    mulMod m P (alphaPower m P i) (alphaPower m P j) = alphaPower m P (i + j) := by
  rw [mulMod_alphaPower hm hP i (alphaPower_lt hP hm j), iterate_timesX_alphaPower]

end Sys2Proof.Machine
end

section
/-! The powers of x modulo P, and the tables BUILDF makes of them (10_state.md R30, R31, 40_field.md R121, R122). -/

namespace Sys2Proof.Machine

open Sys2Proof.Spec

/-! ### The order of x -/

/-- `f` first comes back to 1 from `x` after `k` applications; `Primitive` is this from 1. -/
def FirstOneAfter (f : Nat → Nat) (k x : Nat) : Prop :=
  (∀ j, 0 < j → j < k → f^[j] x ≠ 1) ∧ f^[k] x = 1

theorem firstOneAfter_succ (f : Nat → Nat) (k x : Nat) :
    FirstOneAfter f (k + 1) x ↔ ¬ (f x = 1 ∧ 0 < k) ∧ FirstOneAfter f k (f x) := by
  simp only [FirstOneAfter, Function.iterate_succ_apply, ← and_assoc]
  refine and_congr_left fun _ => ⟨fun h => ⟨?_, fun j h0 hk => ?_⟩, fun ⟨h1, h⟩ j h0 hk => ?_⟩
  · exact fun ⟨hx, hk⟩ => h 1 Nat.one_pos (Nat.succ_lt_succ hk) hx
  · exact h (j + 1) j.succ_pos (Nat.succ_lt_succ hk)
  · cases j with
    | zero => exact absurd h0 (Nat.lt_irrefl 0)
    | succ j =>
      rw [Function.iterate_succ_apply]
      rcases Nat.eq_zero_or_pos j with rfl | hj
      · exact fun hx => h1 ⟨hx, Nat.lt_of_succ_lt_succ hk⟩
      · exact h j hj (Nat.lt_of_succ_lt_succ hk)

theorem two_pow_sub_one_pos {m : Nat} (hm : 0 < m) : 0 < 2 ^ m - 1 :=
  Nat.sub_pos_of_lt (Nat.one_lt_two_pow hm.ne')

section
variable {m P : Nat} (h : Primitive m P)
include h

theorem alphaPower_mod (j : Nat) : alphaPower m P (j % (2 ^ m - 1)) = alphaPower m P j :=
  Function.IsPeriodicPt.iterate_mod_apply h.2 j

variable (hm : 0 < m)
include hm

theorem alphaPower_injOn : Set.InjOn (alphaPower m P) (Set.Iio (2 ^ m - 1)) := by
  have hperiod : Function.minimalPeriod (timesX m P) 1 = 2 ^ m - 1 := by
    have hq : 0 < 2 ^ m - 1 := two_pow_sub_one_pos hm
    have hret : Function.IsPeriodicPt (timesX m P) (2 ^ m - 1) 1 := h.2
    refine Nat.le_antisymm (hret.minimalPeriod_le hq) (Nat.le_of_not_lt fun hlt => ?_)
    exact h.1 _ (hret.minimalPeriod_pos hq) hlt (Function.iterate_minimalPeriod ..)
  exact hperiod ▸ Function.iterate_injOn_Iio_minimalPeriod

/-- 0 is no power of x: it would stay 0, and the powers come back to 1. -/
theorem alphaPower_ne_zero (j : Nat) : alphaPower m P j ≠ 0 := by
  intro h0
  have hq : 0 < 2 ^ m - 1 := two_pow_sub_one_pos hm
  have hle := (Nat.mod_lt j hq).le
  rw [← alphaPower_mod h] at h0
  have hlast := iterate_timesX_alphaPower m P (2 ^ m - 1 - j % (2 ^ m - 1)) (j % (2 ^ m - 1))
  rw [h0, ((timesX_linear m P).iterate _).map_zero, Nat.sub_add_cancel hle, h.2] at hlast
  exact Nat.zero_ne_one hlast

/-- The 2^m − 1 powers of x are all the numbers from 1 to 2^m − 1. -/
theorem exists_alphaPower (hP : P / 2 ^ m = 1) {v : Nat} (h0 : v ≠ 0) (hv : v < 2 ^ m) :
    ∃ j, j < 2 ^ m - 1 ∧ alphaPower m P j = v := by
  have hsurj : Set.SurjOn (alphaPower m P) (Finset.range (2 ^ m - 1)) (Finset.Ico 1 (2 ^ m)) := by
    refine Finset.surjOn_of_injOn_of_card_le _ (fun j _ => ?_) ?_ ?_
    · simpa using ⟨Nat.one_le_iff_ne_zero.mpr (alphaPower_ne_zero h hm j), alphaPower_lt hP hm j⟩
    · simpa using alphaPower_injOn h hm
    · simp
  obtain ⟨j, hj, hjv⟩ := hsurj (by simpa using ⟨Nat.one_le_iff_ne_zero.mpr h0, hv⟩)
  exact ⟨j, by simpa using hj, hjv⟩

end

/-! ### The table loop -/

theorem toNat_mulAlpha {m : Nat} (hm : m ≤ 16) (P : Word) {x : Word} (hx : x.toNat < 2 ^ m) :
    (mulAlpha m P x).toNat = timesX m P.toNat x.toNat := by
  have hle : 2 ^ m ≤ 2 ^ 16 := Nat.pow_le_pow_right (by decide) hm
  have hdouble : (x <<< 1).toNat = 2 * x.toNat := by
    rw [BitVec.toNat_shiftLeft, Nat.shiftLeft_eq, Nat.mod_eq_of_lt (by omega), Nat.mul_comm, Nat.pow_one]
  rw [mulAlpha, timesX, BitVec.getLsbD, hdouble]
  split
  · rw [BitVec.toNat_xor, hdouble]
  · exact hdouble

/-- The elements `x`, `f x`, …, `k` of them. -/
def elemsFrom (f : Nat → Nat) (k x : Nat) : List Elem := (List.range k).map fun j => BitVec.ofNat 16 (f^[j] x)

theorem elemsFrom_succ (f : Nat → Nat) (k x : Nat) :
    elemsFrom f (k + 1) x = BitVec.ofNat 16 x :: elemsFrom f k (f x) := by
  simp [elemsFrom, List.range_succ_eq_map, Function.comp_def]

/-- The loop ends with a table exactly where it first meets 1 at its end, and the table is what it met. -/
theorem alogFrom_eq_some_iff {m : Nat} (hm : m ≤ 16) {P : Word} (hP : P.toNat / 2 ^ m = 1) (k : Nat) {x : Word}
    (hx : x.toNat < 2 ^ m) {l : List Elem} : alogFrom m P k x = some l ↔
      FirstOneAfter (timesX m P.toNat) k x.toNat ∧ l = elemsFrom (timesX m P.toNat) k x.toNat := by
  induction k generalizing x l with
  | zero =>
    have hone : FirstOneAfter (timesX m P.toNat) 0 x.toNat ↔ x = 1 := by
      simp [FirstOneAfter, BitVec.toNat_eq]
    rw [hone, alogFrom]
    by_cases hx1 : x = 1
    · simp [hx1, elemsFrom, eq_comm]
    · rw [if_neg hx1]
      exact iff_of_false nofun fun h => hx1 h.1
  | succ k ih =>
    have hnext := toNat_mulAlpha hm P hx
    have hone : mulAlpha m P x = 1 ↔ timesX m P.toNat x.toNat = 1 := by
      rw [← hnext, BitVec.toNat_eq]
      rfl
    rw [firstOneAfter_succ, elemsFrom_succ, ← hone, alogFrom]
    by_cases hstop : mulAlpha m P x = 1 ∧ 0 < k
    · rw [if_pos hstop]
      exact iff_of_false nofun fun h => h.1.1 hstop
    · rw [if_neg hstop, and_iff_right hstop]
      simp only [Option.map_eq_some_iff, ih (hnext ▸ timesX_lt hP hx), hnext, BitVec.ofNat_toNat, and_assoc,
        exists_and_left, exists_eq_left, eq_comm (b := l)]

/-- The ALOG table of degree m and polynomial P: the powers of x below the order (10_state.md R30). -/
abbrev alphaTable (m P : Nat) : List Elem := elemsFrom (timesX m P) (2 ^ m - 1) 1

theorem fieldTables_eq_some_iff {m : Nat} (h0 : 0 < m) (hm : m ≤ 16) {P : Word} (hP : P.toNat / 2 ^ m = 1)
    {tables : List Elem × List Nat} : fieldTables m P = some tables ↔
      Primitive m P.toNat ∧ tables = (alphaTable m P.toNat, logTable m (alphaTable m P.toNat)) := by
  have hone : (1 : Word).toNat < 2 ^ m := Nat.one_lt_two_pow h0.ne'
  simp only [fieldTables, Option.map_eq_some_iff, alogFrom_eq_some_iff hm hP _ hone, and_assoc,
    exists_and_left, exists_eq_left, eq_comm (b := tables)]
  rfl

/-- "degree must be exactly m" says that P's bits from m up are the number 1. -/
theorem hasDegree_iff (m : Nat) (P : Word) : hasDegree m P = true ↔ P.toNat / 2 ^ m = 1 := by
  have hhigh : P.toNat / 2 ^ (m + 1) = P.toNat / 2 ^ m / 2 := by rw [Nat.pow_succ, Nat.div_div_eq_div_mul]
  simp only [hasDegree, Bool.and_eq_true, beq_iff_eq, BitVec.toNat_eq, BitVec.toNat_ushiftRight,
    Nat.shiftRight_eq_div_pow, hhigh, BitVec.getLsbD, Nat.testBit_eq_decide_div_mod_eq, decide_eq_true_eq,
    BitVec.ofNat_eq_ofNat, BitVec.toNat_ofNat, Nat.zero_mod]
  omega

@[simp] theorem length_alphaTable (m P : Nat) : (alphaTable m P).length = 2 ^ m - 1 := by
  simp [elemsFrom]

theorem toNat_getD_alphaTable {m P : Nat} (h0 : 0 < m) (hm : m ≤ 16) (hP : P / 2 ^ m = 1) {j : Nat}
    (hj : j < 2 ^ m - 1) : ((alphaTable m P).getD j 0).toNat = alphaPower m P j := by
  have hlt := (alphaPower_lt hP h0 j).trans_le (Nat.pow_le_pow_right (by decide) hm)
  simp only [elemsFrom, List.getD, List.getElem?_map, List.getElem?_range hj]
  exact (BitVec.toNat_ofNat ..).trans (Nat.mod_eq_of_lt hlt)

section
variable {c : Params} {F : FieldState} (hc : c.Valid) (hF : fieldBuilt c F)
include hc hF

theorem deg_le_of_fieldBuilt : F.deg ≤ 16 := hF.2.1.trans hc.1.2

/-- The tables of a built field are those of a primitive polynomial of degree m. -/
theorem fieldBuilt_tables : F.poly.toNat / 2 ^ F.deg = 1 ∧ Primitive F.deg F.poly.toNat ∧
    F.alog = alphaTable F.deg F.poly.toNat ∧ F.log = logTable F.deg (alphaTable F.deg F.poly.toNat) := by
  have hle := deg_le_of_fieldBuilt hc hF
  obtain ⟨h0, -, hdeg, htab⟩ := hF
  have hP := (hasDegree_iff _ _).mp hdeg
  obtain ⟨hprim, heq⟩ := (fieldTables_eq_some_iff h0 hle hP).mp htab
  exact ⟨hP, hprim, Prod.mk.inj heq⟩

end

/-! ### BUILDF -/

section
variable {s : State} {a b : RReg}

/-- BUILDF stores the field of its two registers where that passes the checks of a built field. -/
theorem exec_buildf_of_fieldBuilt {F : FieldState} (hfv : F.fv = true) (hm : F.m = s.readR a)
    (hpoly : F.poly = s.readR b) (hF : fieldBuilt s.cfg F) : exec (.buildf a b) s =
      .next { s with field := F, code := CodeState.reset, done := true, phase := .idle } := by
  obtain ⟨fv, m, poly, alog, log⟩ := F
  obtain rfl : fv = true := hfv
  obtain rfl : m = s.readR a := hm
  obtain rfl : poly = s.readR b := hpoly
  obtain ⟨hmin, hmax, hdeg, htab⟩ := hF
  have hrange : ¬ (s.natReg a < 1 ∨ s.cfg.mMax < s.natReg a) :=
    not_or.mpr ⟨Nat.not_lt.mpr hmin, Nat.not_lt.mpr hmax⟩
  have hdeg' : ¬ hasDegree (s.natReg a) (s.readR b) = false := ne_false_of_eq_true hdeg
  have htab' : fieldTables (s.natReg a) (s.readR b) = some (alog, log) := htab
  simp only [exec, execBuildf, if_neg hrange, if_neg hdeg', htab']
  rfl

/-- BUILDF raises its one error where no field of its two registers passes those checks. -/
theorem exec_buildf_of_not_fieldBuilt
    (h : ∀ F : FieldState, F.m = s.readR a → F.poly = s.readR b → ¬ fieldBuilt s.cfg F) :
    exec (.buildf a b) s = .next (erroring s 0x01) := by
  rw [exec, execBuildf]
  split
  · rfl
  next hrange =>
    split
    · rfl
    next hdeg =>
      split
      · rfl
      next tables htab =>
        obtain ⟨hmin, hmax⟩ := not_or.mp hrange
        exact absurd ⟨Nat.not_lt.mp hmin, Nat.not_lt.mp hmax, eq_true_of_ne_false hdeg, htab⟩
          (h ⟨true, s.readR a, s.readR b, tables.1, tables.2⟩ rfl rfl)

end

/-- Settles O31: the loop ends with tables exactly where x has order 2^m − 1, and ALOG is the powers it met. -/
theorem buildfAcceptsExactlyPrimitivePolynomials : Obligations.BuildfAcceptsExactlyPrimitivePolynomials := by
  intro s a b hc m P
  refine ⟨fun ⟨h0, hm, hP, hprim⟩ => ?_, fun hnot => exec_buildf_of_not_fieldBuilt fun F hFm hFP hF => ?_⟩
  · have hle : m ≤ 16 := hm.trans hc.1.2
    have hbuilt : fieldBuilt s.cfg
        ⟨true, s.readR a, s.readR b, alphaTable m P, logTable m (alphaTable m P)⟩ :=
      ⟨h0, hm, (hasDegree_iff _ _).mpr hP, (fieldTables_eq_some_iff h0 hle hP).mpr ⟨hprim, rfl⟩⟩
    exact ⟨_, exec_buildf_of_fieldBuilt rfl rfl rfl hbuilt, rfl, rfl, rfl, rfl, length_alphaTable m P,
      fun j hj => toNat_getD_alphaTable h0 hle hP hj⟩
  · obtain ⟨hP, hprim, -, -⟩ := fieldBuilt_tables hc hF
    obtain ⟨h0, hm, -, -⟩ := hF
    have hdeg : F.deg = m := congrArg BitVec.toNat hFm
    rw [hdeg] at h0 hm hP hprim
    rw [hFP] at hP hprim
    exact hnot ⟨h0, hm, hP, hprim⟩

end Sys2Proof.Machine
end

section
/-! The arithmetic of a built field: every element but 0 is a power of α, the table product adds exponents, and that is
the product modulo P (10_state.md R31, 40_field.md R123–R126). -/

namespace Sys2Proof.Machine

open Sys2Proof.Spec

/-! ### Powers of α and logarithms -/

theorem alogAt_mod_q1 (F : FieldState) (i : Nat) : F.alogAt (i % F.q1) = F.alphaPow i := rfl

theorem alphaPow_congr {F : FieldState} {i j : Nat} (h : i % F.q1 = j % F.q1) : F.alphaPow i = F.alphaPow j :=
  congrArg F.alogAt h

section
variable {c : Params} {F : FieldState} (hc : c.Valid) (hF : fieldBuilt c F)
include hc hF

theorem toNat_alphaPow (i : Nat) : (F.alphaPow i).toNat = alphaPower F.deg F.poly.toNat i := by
  obtain ⟨hP, hprim, halog, -⟩ := fieldBuilt_tables hc hF
  rw [FieldState.alphaPow, FieldState.alogAt, halog, FieldState.q1, ← alphaPower_mod hprim]
  exact toNat_getD_alphaTable hF.1 (deg_le_of_fieldBuilt hc hF) hP (Nat.mod_lt _ (two_pow_sub_one_pos hF.1))

theorem alphaPow_lt (i : Nat) : (F.alphaPow i).toNat < 2 ^ F.deg := by
  rw [toNat_alphaPow hc hF]
  exact alphaPower_lt (fieldBuilt_tables hc hF).1 hF.1 i

theorem alphaPow_zero : F.alphaPow 0 = 1#16 := BitVec.eq_of_toNat_eq (toNat_alphaPow hc hF 0)

theorem alphaPow_q1 : F.alphaPow F.q1 = 1#16 :=
  (alphaPow_congr (by rw [Nat.mod_self, Nat.zero_mod])).trans (alphaPow_zero hc hF)

theorem length_alog : F.alog.length = F.q1 := by
  obtain ⟨-, -, halog, -⟩ := fieldBuilt_tables hc hF
  rw [halog, length_alphaTable, FieldState.q1]

section
variable {a : Elem} (h0 : a ≠ 0#16) (ha : a.toNat < 2 ^ F.deg)
include h0 ha

/-- ALOG holds every nonzero element. -/
theorem mem_alog : a ∈ F.alog := by
  obtain ⟨hP, hprim, halog, -⟩ := fieldBuilt_tables hc hF
  obtain ⟨j, hj, hja⟩ := exists_alphaPower hprim hF.1 hP (fun h => h0 (BitVec.eq_of_toNat_eq h)) ha
  have hlt : j < F.alog.length := length_alog hc hF ▸ hj
  have hget : F.alog[j] = a := by
    apply BitVec.eq_of_toNat_eq
    rw [← hja, ← toNat_getD_alphaTable hF.1 (deg_le_of_fieldBuilt hc hF) hP hj, ← halog,
      List.getD_eq_getElem _ _ hlt]
  exact hget ▸ List.getElem_mem hlt

theorem logAt_eq_idxOf : F.logAt a = F.alog.idxOf a := by
  obtain ⟨-, -, halog, hlog⟩ := fieldBuilt_tables hc hF
  have h0' : a.toNat ≠ 0 := fun h => h0 (BitVec.eq_of_toNat_eq h)
  simp [FieldState.logAt, hlog, ← halog, logTable, List.getD, ha, h0']

/-- LOG undoes ALOG: every nonzero element is the power of α that LOG names (10_state.md R31). -/
theorem alphaPow_logAt : F.logAt a < F.q1 ∧ F.alphaPow (F.logAt a) = a := by
  have hlt : F.alog.idxOf a < F.alog.length := List.idxOf_lt_length_of_mem (mem_alog hc hF h0 ha)
  rw [logAt_eq_idxOf hc hF h0 ha, FieldState.alphaPow, ← length_alog hc hF, Nat.mod_eq_of_lt hlt,
    FieldState.alogAt, List.getD_eq_getElem _ _ hlt, List.getElem_idxOf]
  exact ⟨hlt, rfl⟩

theorem toNat_eq_alphaPower : a.toNat = alphaPower F.deg F.poly.toNat (F.logAt a) := by
  rw [← toNat_alphaPow hc hF, (alphaPow_logAt hc hF h0 ha).2]

end

/-! ### The product -/

/-- The table product is the product modulo P (40_field.md R124). -/
theorem toNat_mul {a b : Elem} (ha : a.toNat < 2 ^ F.deg) (hb : b.toNat < 2 ^ F.deg) :
    (F.mul a b).toNat = mulMod F.deg F.poly.toNat a.toNat b.toNat := by
  rw [FieldState.mul]
  split
  next h =>
    obtain rfl | rfl := h
    · exact (mulMod_zero_left ..).symm
    · exact (mulMod_zero_right ..).symm
  next h =>
    obtain ⟨ha0, hb0⟩ := not_or.mp h
    rw [alogAt_mod_q1, toNat_alphaPow hc hF, toNat_eq_alphaPower hc hF ha0 ha, toNat_eq_alphaPower hc hF hb0 hb,
      mulMod_alphaPower_alphaPower hF.1 (fieldBuilt_tables hc hF).1]

theorem mul_lt {a b : Elem} : (F.mul a b).toNat < 2 ^ F.deg := by
  rw [FieldState.mul]
  split
  · exact Nat.two_pow_pos _
  · exact alphaPow_lt hc hF _

theorem mul_alphaPow (i j : Nat) : F.mul (F.alphaPow i) (F.alphaPow j) = F.alphaPow (i + j) := by
  apply BitVec.eq_of_toNat_eq
  rw [toNat_mul hc hF (alphaPow_lt hc hF i) (alphaPow_lt hc hF j)]
  simp only [toNat_alphaPow hc hF, mulMod_alphaPower_alphaPower hF.1 (fieldBuilt_tables hc hF).1]

/-- The product distributes over the sum. -/
theorem xor_mul {a b x : Elem} (ha : a.toNat < 2 ^ F.deg) (hb : b.toNat < 2 ^ F.deg)
    (hx : x.toNat < 2 ^ F.deg) : F.mul (a ^^^ b) x = F.mul a x ^^^ F.mul b x := by
  apply BitVec.eq_of_toNat_eq
  have hab : (a ^^^ b).toNat < 2 ^ F.deg := Nat.xor_lt_two_pow ha hb
  simp only [BitVec.toNat_xor, toNat_mul hc hF ha hx, toNat_mul hc hF hb hx, toNat_mul hc hF hab hx]
  exact mulMod_xor_left ..

/-! ### Inverse and powers -/

theorem mul_inv {a : Elem} (h0 : a ≠ 0#16) (ha : a.toNat < 2 ^ F.deg) : F.mul a (F.inv a) = 1#16 := by
  obtain ⟨hlt, hlog⟩ := alphaPow_logAt hc hF h0 ha
  calc F.mul a (F.inv a)
    _ = F.mul (F.alphaPow (F.logAt a)) (F.alphaPow (F.q1 - F.logAt a)) := by rw [hlog]; rfl
    _ = F.alphaPow F.q1 := by rw [mul_alphaPow hc hF, Nat.add_sub_cancel' hlt.le]
    _ = 1#16 := alphaPow_q1 hc hF

/-- The repeated product by α^l, starting at 1. -/
theorem iterate_mul_alphaPow (l n : Nat) :
    (fun x => F.mul x (F.alphaPow l))^[n] 1 = F.alphaPow (l * n) := by
  induction n with
  | zero => exact (alphaPow_zero hc hF).symm
  | succ n ih => rw [Function.iterate_succ_apply', ih, mul_alphaPow hc hF, Nat.mul_succ]

theorem iterate_mul_eq_alphaPow {a : Elem} (h0 : a ≠ 0#16) (ha : a.toNat < 2 ^ F.deg) (n : Nat) :
    (fun x => F.mul x a)^[n] 1 = F.alphaPow (F.logAt a * n) := by
  rw [← iterate_mul_alphaPow hc hF, (alphaPow_logAt hc hF h0 ha).2]

omit hc in
/-- The table power is the power of α whose exponent is the remainder modulo q1 (40_field.md R126). -/
theorem exists_pow_eq_alphaPow (a : Elem) (E : Int) :
    ∃ r : Nat, (r : Int) = F.logAt a * E % F.q1 ∧ F.pow a E = F.alphaPow r := by
  have hq : (0 : Int) < F.q1 := Int.natCast_pos.mpr (two_pow_sub_one_pos hF.1)
  obtain ⟨r, hr⟩ := Int.eq_ofNat_of_zero_le (Int.emod_nonneg (F.logAt a * E) hq.ne')
  have hlt : r < F.q1 := Int.ofNat_lt.mp (hr ▸ Int.emod_lt_of_pos _ hq)
  refine ⟨r, hr.symm, ?_⟩
  rw [FieldState.pow, hr, Int.toNat_natCast, FieldState.alphaPow, Nat.mod_eq_of_lt hlt]

theorem pow_lt {a : Elem} {E : Int} : (F.pow a E).toNat < 2 ^ F.deg := by
  obtain ⟨r, -, hpow⟩ := exists_pow_eq_alphaPow hF a E
  exact hpow ▸ alphaPow_lt hc hF r

/-- A nonnegative exponent: the table power is the repeated product. -/
theorem pow_of_nonneg {a : Elem} (h0 : a ≠ 0#16) (ha : a.toNat < 2 ^ F.deg) {E : Int} (hE : 0 ≤ E) :
    F.pow a E = (fun x => F.mul x a)^[E.toNat] 1 := by
  obtain ⟨r, hr, hpow⟩ := exists_pow_eq_alphaPow hF a E
  have hmod : r % F.q1 = F.logAt a * E.toNat % F.q1 := by
    rw [← Int.natCast_inj]
    push_cast
    rw [hr, Int.toNat_of_nonneg hE, Int.emod_emod]
  rw [hpow, iterate_mul_eq_alphaPow hc hF h0 ha, alphaPow_congr hmod]

/-- A negative exponent: the exponents of the two powers add up to a multiple of q1. -/
theorem pow_mul_of_neg {a : Elem} (h0 : a ≠ 0#16) (ha : a.toNat < 2 ^ F.deg) {E : Int} (hE : E < 0) :
    F.mul (F.pow a E) ((fun x => F.mul x a)^[(-E).toNat] 1) = 1#16 := by
  obtain ⟨r, hr, hpow⟩ := exists_pow_eq_alphaPow hF a E
  have hsum : (r + F.logAt a * (-E).toNat) % F.q1 = 0 % F.q1 := by
    rw [← Int.natCast_inj]
    push_cast
    rw [hr, Int.toNat_of_nonneg (by omega), Int.emod_add_emod, Int.mul_neg, Int.add_right_neg]
  rw [hpow, iterate_mul_eq_alphaPow hc hF h0 ha, mul_alphaPow hc hF, alphaPow_congr hsum, alphaPow_zero hc hF]

omit hc hF in
theorem iterate_mul_zero {n : Nat} (hn : 0 < n) : (fun x => F.mul x 0#16)^[n] 1 = 0#16 := by
  obtain ⟨n, rfl⟩ := Nat.exists_eq_succ_of_ne_zero hn.ne'
  rw [Function.iterate_succ_apply']
  exact if_pos (.inr rfl)

end

/-! ### The commands -/

theorem wroteE_complete (s : State) (d : EReg) (v : Elem) : WroteE s (s.writeE d v).complete d :=
  ⟨rfl, fun _ hi => readE_writeE_of_ne hi v⟩

theorem readE_writeE_complete (s : State) (d : EReg) (v : Elem) :
    (s.writeE d v).complete.readE d = storeElem s.cfg v := by
  rw [readE_congr (s.writeE d v).complete_e, readE_writeE, if_pos rfl]

theorem feReg_lt (s : State) (i : EReg) : (s.feReg i).toNat < 2 ^ s.field.deg := lowBits_lt _ _

section
variable {s : State} (h : s.Inv) (hfv : s.field.fv = true)
include h hfv

/-- A field command that finishes with a field element in e[d] writes exactly that. -/
theorem wroteE_of_finish {x : Result} {d : EReg} {v : Elem} (hx : x = finish (s.writeE d v))
    (hv : v.toNat < 2 ^ s.field.deg) : ∃ t, x = .next t ∧ WroteE s t d ∧ t.readE d = v := by
  refine ⟨_, hx, wroteE_complete s d v, ?_⟩
  rw [readE_writeE_complete]
  obtain ⟨-, hm, -⟩ := h.fieldOn hfv
  exact storeElem_of_lt (hv.trans_le (Nat.pow_le_pow_right (by decide) hm))

omit h

theorem exec_fadd (d a b : EReg) :
    exec (.fadd d a b) s = finish (s.writeE d (s.feReg a ^^^ s.feReg b)) := if_pos hfv

theorem exec_fmul (d a b : EReg) :
    exec (.fmul d a b) s = finish (s.writeE d (s.field.mul (s.feReg a) (s.feReg b))) := if_pos hfv

theorem exec_finv (d a : EReg) : exec (.finv d a) s =
    if s.feReg a = 0 then .next (erroring s 0x03) else finish (s.writeE d (s.field.inv (s.feReg a))) :=
  if_pos hfv

theorem exec_fpow (d a : EReg) (b : RReg) : exec (.fpow d a b) s =
    if s.feReg a = 0 then
      if 0 < s.intReg b then finish (s.writeE d 0)
      else if s.intReg b = 0 then finish (s.writeE d 1)
      else .next (erroring s 0x03)
    else finish (s.writeE d (s.field.pow (s.feReg a) (s.intReg b))) := if_pos hfv

end

theorem getLsbD_feReg (s : State) (i : EReg) (k : Nat) :
    (s.feReg i).getLsbD k = (decide (k < s.field.deg) && (s.readE i).getLsbD k) := by
  rw [State.feReg, FieldState.fe, BitVec.getLsbD, lowBits_toNat, Nat.testBit_mod_two_pow, BitVec.getLsbD]

/-- Settles O33: the product is a field element, so e[D] holds `toNat_mul`'s value. -/
theorem fmulIsTheProductModuloP : Obligations.FmulIsTheProductModuloP := by
  intro s d a b h hfv
  have hF := h.fieldOn hfv
  obtain ⟨t, hx, hw, ht⟩ := wroteE_of_finish h hfv (exec_fmul hfv d a b) (mul_lt h.cfgValid hF)
  exact ⟨t, hx, hw, ht ▸ toNat_mul h.cfgValid hF (feReg_lt s a) (feReg_lt s b)⟩

/-- Settles O32: the sum of two field elements is one, so e[D] holds all its bits. -/
theorem faddIsXorOfTheFieldBits : Obligations.FaddIsXorOfTheFieldBits := by
  intro s d a b h hfv
  obtain ⟨t, hx, hw, ht⟩ := wroteE_of_finish h hfv (exec_fadd hfv d a b)
    (Nat.xor_lt_two_pow (feReg_lt s a) (feReg_lt s b))
  refine ⟨t, hx, hw, fun k => ?_⟩
  rw [ht, BitVec.getLsbD_xor, getLsbD_feReg, getLsbD_feReg]
  cases decide (k < s.field.deg) <;> simp

/-- Settles O34: `mul_inv`, behind the check for 0. -/
theorem finvIsTheInverse : Obligations.FinvIsTheInverse := by
  intro s d a h hfv
  have hF := h.fieldOn hfv
  refine ⟨fun h0 => ?_, fun h0 => (exec_finv hfv d a).trans (if_pos h0)⟩
  obtain ⟨t, hx, hw, ht⟩ := wroteE_of_finish h hfv ((exec_finv hfv d a).trans (if_neg h0))
    (alphaPow_lt h.cfgValid hF _)
  exact ⟨t, hx, hw, ht ▸ mul_inv h.cfgValid hF h0 (feReg_lt s a)⟩

/-- Settles O35: the tables give the power of a nonzero base, and the sign of the exponent that of 0. -/
theorem fpowIsTheSignedPower : Obligations.FpowIsTheSignedPower := by
  intro s d a b h hfv E power
  have hc := h.cfgValid
  have hF := h.fieldOn hfv
  have hx := exec_fpow hfv d a b
  by_cases h0 : s.feReg a = 0
  · rw [if_pos h0] at hx
    refine ⟨fun hE => ?_, fun _ hne => absurd h0 hne, fun hE _ => ?_⟩
    · rcases hE.lt_or_eq with hpos | hzero
      · have hpow : power E.toNat = 0 := by
          simp only [power, h0]
          exact iterate_mul_zero (Int.pos_iff_toNat_pos.mp hpos)
        rw [hpow]
        exact wroteE_of_finish h hfv (hx.trans (if_pos hpos)) (Nat.two_pow_pos _)
      · have hpow : power E.toNat = 1 := by rw [← hzero]; rfl
        rw [hpow]
        exact wroteE_of_finish h hfv (hx.trans ((if_neg hzero.not_lt).trans (if_pos hzero.symm)))
          (Nat.one_lt_two_pow (Nat.one_le_iff_ne_zero.mp hF.1))
    · exact hx.trans ((if_neg hE.not_gt).trans (if_neg hE.ne))
  · obtain ⟨t, hx, hw, ht⟩ := wroteE_of_finish h hfv (hx.trans (if_neg h0)) (pow_lt hc hF)
    refine ⟨fun hE => ⟨t, hx, hw, ?_⟩, fun hE _ => ⟨t, hx, hw, ?_⟩, fun _ h => absurd h h0⟩
    · exact ht.trans (pow_of_nonneg hc hF h0 (feReg_lt s a) hE)
    · rw [ht]
      exact pow_mul_of_neg hc hF h0 (feReg_lt s a) hE

end Sys2Proof.Machine
end

section
/-! A syndrome: Horner's evaluation of a 0/1 polynomial at a power of α is a sum of powers of α (44_codec.md R205). -/

namespace Sys2Proof.Machine

open Sys2Proof.Spec

/-! ### Sums in characteristic 2 -/

theorem xorSum_succ (n : Nat) (g : Nat → Elem) : xorSum (n + 1) g = xorSum n g ^^^ g n := by
  simp [xorSum, List.range_succ]

theorem xorSum_succ_first (n : Nat) (g : Nat → Elem) :
    xorSum (n + 1) g = g 0 ^^^ xorSum n fun i => g (i + 1) := by
  induction n with
  | zero => exact BitVec.xor_comm ..
  | succ n ih => rw [xorSum_succ, ih, xorSum_succ, BitVec.xor_assoc]

/-! ### Evaluation -/

/-- Trailing zero coefficients do not matter to Horner's loop. -/
theorem eval_trim {A : Arith} (hA : A.KeepsOne) (p : Poly) (x : Elem) :
    Poly.eval A (Poly.trim p) x = Poly.eval A p x := by
  have hcons (a : Elem) (q : Poly) : Poly.eval A (a :: q) x = A.mul (Poly.eval A q x) x ^^^ a := rfl
  induction p with
  | nil => rfl
  | cons a p ih =>
    rw [hcons, ← ih]
    by_cases hp : Poly.trim p = []
    · rw [trim_cons_of_eq a hp, hp]
      by_cases ha : a = 0#16 <;> simp [ha, Poly.eval, hA.zero_mul]
    · rw [trim_cons_of_ne a hp, hcons]

section
variable {c : Params} {F : FieldState} (hc : c.Valid) (hF : fieldBuilt c F)
include hc hF

omit hc hF in
theorem xorSum_lt {n : Nat} {g : Nat → Elem} (hg : ∀ i, (g i).toNat < 2 ^ F.deg) :
    (xorSum n g).toNat < 2 ^ F.deg := by
  induction n with
  | zero => exact Nat.two_pow_pos _
  | succ n ih => exact xorSum_succ n g ▸ Nat.xor_lt_two_pow ih (hg n)

theorem xorSum_mul {n : Nat} {g : Nat → Elem} (hg : ∀ i, (g i).toNat < 2 ^ F.deg) {x : Elem}
    (hx : x.toNat < 2 ^ F.deg) : F.mul (xorSum n g) x = xorSum n fun i => F.mul (g i) x := by
  induction n with
  | zero => exact if_pos (.inl rfl)
  | succ n ih => rw [xorSum_succ, xorSum_succ, xor_mul hc hF (xorSum_lt hg) (hg n) hx, ih]

theorem ite_alphaPow_lt (b : Bool) (e : Nat) : (if b then F.alphaPow e else 0).toNat < 2 ^ F.deg := by
  split
  · exact alphaPow_lt hc hF e
  · exact Nat.two_pow_pos _

theorem ite_alphaPow_mul (b : Bool) (e i : Nat) :
    F.mul (if b then F.alphaPow e else 0) (F.alphaPow i) = if b then F.alphaPow (e + i) else 0 := by
  split
  · exact mul_alphaPow hc hF e i
  · exact if_pos (.inl rfl)

/-- The value at α^i of the polynomial with the bits `b j` is the sum of α^(i·j) over the set ones. -/
theorem eval_bits (n i : Nat) (b : Nat → Bool) :
    Poly.eval F.arith ((List.range n).map fun j => if b j then 1 else 0) (F.alphaPow i) =
      xorSum n fun j => if b j then F.alphaPow (i * j) else 0 := by
  induction n generalizing b with
  | zero => rfl
  | succ n ih =>
    have hrest := ih fun j => b (j + 1)
    have hlow := xorSum_lt (F := F) (n := n) fun j => ite_alphaPow_lt hc hF (b (j + 1)) (i * j)
    rw [List.range_succ_eq_map, List.map_cons, List.map_map]
    calc F.mul (Poly.eval F.arith ((List.range n).map fun j => if b (j + 1) then 1 else 0) (F.alphaPow i))
          (F.alphaPow i) ^^^ (if b 0 then 1 else 0)
      _ = (xorSum n fun j => if b (j + 1) then F.alphaPow (i * (j + 1)) else 0) ^^^ (if b 0 then 1 else 0) := by
        rw [hrest, xorSum_mul hc hF (fun j => ite_alphaPow_lt hc hF (b (j + 1)) (i * j)) (alphaPow_lt hc hF i)]
        simp only [ite_alphaPow_mul hc hF, Nat.mul_succ]
      _ = xorSum (n + 1) fun j => if b j then F.alphaPow (i * j) else 0 := by
        rw [xorSum_succ_first, BitVec.xor_comm, Nat.mul_zero, alphaPow_zero hc hF]
        rfl

end

/-- A bit-vector operand has coefficients 0 and 1 (44_codec.md R200). -/
theorem bitVector_eq_trim (L : Nat) (P : Poly) : bitVector L P =
    Poly.trim ((List.range L).map fun j => if (Poly.coef P j).getLsbD 0 then 1 else 0) := by
  have hbit (v : Elem) : lowBits 1 v = if v.getLsbD 0 then 1 else 0 := by
    apply BitVec.eq_of_toNat_eq
    refine Eq.trans ?_ (toNat_ite_one_zero _).symm
    rw [lowBits_toNat, BitVec.getLsbD, Nat.testBit_zero]
    rcases Nat.mod_two_eq_zero_or_one v.toNat with h | h <;> simp [h]
  simp only [bitVector, Poly.tabulate, hbit]

/-- SYN keeps each syndrome whole: 2t is below POLY_LEN, and a field element fits a coefficient. -/
theorem coef_store_syndromes {s : State} (h : s.Inv) (hcv : s.code.cv = true) {rcv : Poly} {i : Nat}
    (h1 : 1 ≤ i) (hi : i ≤ 2 * s.code.tNat)
    (hlt : (Poly.eval s.field.arith rcv (s.field.alphaPow i)).toNat < 2 ^ s.field.deg) :
    Poly.coef (storePoly s.cfg (syndromes s.field s.code.tNat rcv)) i =
      Poly.eval s.field.arith rcv (s.field.alphaPow i) := by
  obtain ⟨hfv, -, -, -, -, ht, -⟩ := h.codeOn hcv
  have hF := h.fieldOn hfv
  have hq := (q1_lt h.cfgValid hF).1
  have hcoef : Poly.coef (syndromes s.field s.code.tNat rcv) i =
      Poly.eval s.field.arith rcv (s.field.alphaPow i) := by
    rw [syndromes, coef_tabulate, if_pos (by omega), if_neg (by omega)]
  rw [coef_storePoly_of_fits (by omega), hcoef]
  exact hcoef ▸ hlt.trans_le (Nat.pow_le_pow_right (by decide) hF.2.1)

theorem exec_syn {s : State} (hcv : s.code.cv = true) (d a : PReg) {b : RReg} (hn : s.readR b = s.code.n) :
    exec (.syn d a b) s =
      finish (s.writeP d (syndromes s.field s.code.tNat (bitVector s.code.nNat (s.readP a)))) :=
  (if_pos hcv).trans (if_neg (not_not.mpr hn))

/-- Settles O53: the syndrome in coefficient i is the received bits' polynomial at α^i. -/
theorem syndromeIsAPowerSum : Obligations.SyndromeIsAPowerSum := by
  intro s t d a b h hcv hn hx i h1 hi
  have hc := h.cfgValid
  have hF := h.fieldOn (h.codeOn hcv).1
  have heval : Poly.eval s.field.arith (bitVector s.code.nNat (s.readP a)) (s.field.alphaPow i) =
      xorSum s.code.nNat fun j =>
        if (Poly.coef (s.readP a) j).getLsbD 0 then s.field.alphaPow (i * j) else 0 := by
    rw [bitVector_eq_trim, eval_trim (field_keepsOne hF), eval_bits hc hF]
  have hlt := heval ▸ xorSum_lt (F := s.field) (n := s.code.nNat) fun j => ite_alphaPow_lt hc hF _ (i * j)
  cases (exec_syn hcv d a hn).symm.trans hx
  rw [readP_writeP_complete, coef_store_syndromes h hcv h1 hi hlt, heval]
  rfl

end Sys2Proof.Machine
end

section
/-! Coefficients as a field: where the n-bit values under an `Arith` are a field K, the canonical coefficient lists are
the polynomials of K[X], and each operation of Machine/Poly.lean is Mathlib's (41_poly_gf2.md, 42_poly_gf2m.md). -/

namespace Sys2Proof.Machine

open Sys2Proof.Spec Polynomial

/-! ### Coefficients of a list -/

theorem exists_coef_of_mem {p : Poly} {x : Elem} (hx : x ∈ p) : ∃ j, Poly.coef p j = x := by
  obtain ⟨j, hj, rfl⟩ := List.mem_iff_getElem.mp hx
  exact ⟨j, List.getD_eq_getElem _ _ hj⟩

theorem coef_mem_or_zero (p : Poly) (j : Nat) : Poly.coef p j ∈ p ∨ Poly.coef p j = 0#16 := by
  rcases Nat.lt_or_ge j p.length with hj | hj
  · refine .inl ?_
    rw [Poly.coef, List.getD_eq_getElem _ _ hj]
    exact List.getElem_mem hj
  · exact .inr (coef_of_length_le hj)

theorem coefs_iff {n : Nat} {p : Poly} : Coefs n p ↔ ∀ j, (Poly.coef p j).toNat < 2 ^ n := by
  refine ⟨fun h j => ?_, fun h x hx => ?_⟩
  · obtain hx | hx := coef_mem_or_zero p j
    · exact h _ hx
    · exact hx ▸ Nat.two_pow_pos n
  · obtain ⟨j, rfl⟩ := exists_coef_of_mem hx
    exact h j

/-- A canonical list ends at its highest nonzero coefficient. -/
theorem length_le_iff {p : Poly} (hp : Poly.trim p = p) {k : Nat} :
    p.length ≤ k ↔ ∀ j, k ≤ j → Poly.coef p j = 0#16 := by
  refine ⟨fun h j hj => coef_of_length_le (h.trans hj), fun h => ?_⟩
  by_contra hk
  have hne : p ≠ [] := List.ne_nil_of_length_pos (Nat.zero_lt_of_lt (Nat.not_le.mp hk))
  exact lead_trim_ne_zero (hp.symm ▸ hne) (hp.symm ▸ h _ (by omega))

theorem conv_trim (mul : Elem → Elem → Elem) (p q : Poly) :
    conv mul (Poly.trim p) (Poly.trim q) = conv mul p q := by
  funext j
  simp only [conv, coef_trim]

/-! ### The field of coefficients -/

/-- The values of `n` bits with XOR and `A` are the field `K`; `bits` gives the value of an element. -/
structure Arith.FieldRep (A : Arith) (n : Nat) (K : Type) [Field K] where
  bits : K → Elem
  bits_injective : Function.Injective bits
  bits_lt : ∀ x, (bits x).toNat < 2 ^ n
  exists_bits : ∀ v : Elem, v.toNat < 2 ^ n → ∃ x, bits x = v
  bits_one : bits 1 = 1#16
  bits_add : ∀ x y, bits (x + y) = bits x ^^^ bits y
  bits_mul : ∀ x y, bits (x * y) = A.mul (bits x) (bits y)
  bits_inv : ∀ x, x ≠ 0 → bits x⁻¹ = A.inv (bits x)

namespace Arith.FieldRep

variable {A : Arith} {n : Nat} {K : Type} [Field K] (ρ : A.FieldRep n K)

@[simp] theorem bits_zero : ρ.bits 0 = 0#16 := by
  have h := ρ.bits_add 0 0
  rw [add_zero, BitVec.xor_self] at h
  exact h

theorem bits_eq_zero_iff {x : K} : ρ.bits x = 0#16 ↔ x = 0 :=
  ⟨fun h => ρ.bits_injective (h.trans ρ.bits_zero.symm), fun h => h ▸ ρ.bits_zero⟩

theorem bits_sum (m : Nat) (g : Nat → K) :
    ρ.bits (∑ i ∈ Finset.range m, g i) = xorSum m fun i => ρ.bits (g i) := by
  induction m with
  | zero => exact ρ.bits_zero
  | succ m ih => rw [Finset.sum_range_succ, ρ.bits_add, ih, xorSum_succ]

theorem mul_bits_zero (x : K) : A.mul (ρ.bits x) 0#16 = 0#16 := by
  rw [← ρ.bits_zero, ← ρ.bits_mul, mul_zero]

include ρ in
/-- Addition is XOR, so the field has characteristic 2. -/
theorem charP_two : CharP K 2 :=
  CharTwo.of_one_ne_zero_of_two_eq_zero one_ne_zero <| ρ.bits_eq_zero_iff.mp <| by
    rw [← one_add_one_eq_two, ρ.bits_add, BitVec.xor_self]

/-! ### The list of a polynomial -/

/-- The canonical coefficient list of `f` (10_state.md R24, log 12). -/
noncomputable def poly (f : K[X]) : Poly := Poly.tabulate (f.natDegree + 1) fun j => ρ.bits (f.coeff j)

@[simp] theorem coef_poly (f : K[X]) (j : Nat) : Poly.coef (ρ.poly f) j = ρ.bits (f.coeff j) := by
  rw [poly, coef_tabulate]
  split
  · rfl
  · rw [coeff_eq_zero_of_natDegree_lt (by omega), bits_zero]
    rfl

@[simp] theorem trim_poly (f : K[X]) : Poly.trim (ρ.poly f) = ρ.poly f := trim_trim _

theorem trim_eq_poly {p : Poly} {f : K[X]} (h : ∀ j, Poly.coef p j = ρ.bits (f.coeff j)) :
    Poly.trim p = ρ.poly f := by
  rw [← trim_poly]
  exact trim_eq_of_coef fun j => (h j).trans (ρ.coef_poly f j).symm

theorem poly_injective : Function.Injective ρ.poly := fun f g h => by
  ext j
  apply ρ.bits_injective
  rw [← coef_poly, h, coef_poly]

theorem poly_zero : ρ.poly 0 = [] := (ρ.trim_eq_poly (p := []) fun j => by simp).symm

@[simp] theorem poly_eq_nil_iff {f : K[X]} : ρ.poly f = [] ↔ f = 0 :=
  ⟨fun h => ρ.poly_injective (h.trans ρ.poly_zero.symm), fun h => h ▸ ρ.poly_zero⟩

theorem coefs_poly (f : K[X]) : Coefs n (ρ.poly f) :=
  coefs_iff.mpr fun j => ρ.coef_poly f j ▸ ρ.bits_lt _

/-- Every list of n-bit coefficients is, trimmed, the list of a polynomial. -/
theorem exists_trim_eq_poly {p : Poly} (hp : Coefs n p) : ∃ f, Poly.trim p = ρ.poly f := by
  choose g hg using fun j => ρ.exists_bits _ (coefs_iff.mp hp j)
  refine ⟨∑ j ∈ Finset.range p.length, monomial j (g j), ρ.trim_eq_poly fun j => ?_⟩
  simp only [finsetSum_coeff, coeff_monomial, Finset.sum_ite_eq', Finset.mem_range]
  split
  · exact (hg j).symm
  · rw [bits_zero, coef_of_length_le (by omega)]

theorem length_poly_le_iff {f : K[X]} {k : Nat} : (ρ.poly f).length ≤ k ↔ f.degree < k := by
  rw [length_le_iff (ρ.trim_poly f), degree_lt_iff_coeff_zero]
  simp only [coef_poly, bits_eq_zero_iff]

theorem length_poly_eq {f : K[X]} (hf : f ≠ 0) : (ρ.poly f).length = f.natDegree + 1 := by
  refine le_antisymm (ρ.length_poly_le_iff.mpr ?_) (Nat.lt_of_not_le fun h => ?_)
  · rw [degree_eq_natDegree hf]
    exact_mod_cast Nat.lt_succ_self _
  · rw [length_poly_le_iff, degree_eq_natDegree hf] at h
    exact lt_irrefl _ h

theorem length_poly_lt_iff {f g : K[X]} (hg : g ≠ 0) :
    (ρ.poly f).length < (ρ.poly g).length ↔ f.degree < g.degree := by
  rw [ρ.length_poly_eq hg, Nat.lt_succ_iff, length_poly_le_iff, degree_eq_natDegree hg]

theorem length_poly_mono {f g : K[X]} (h : f.degree ≤ g.degree) : (ρ.poly f).length ≤ (ρ.poly g).length :=
  ρ.length_poly_le_iff.mpr (h.trans_lt (ρ.length_poly_le_iff.mp le_rfl))

theorem deg_poly {f : K[X]} (hf : f ≠ 0) : Poly.deg (ρ.poly f) = f.natDegree := by
  rw [Poly.deg, trim_poly, ρ.length_poly_eq hf]
  omega

theorem deg_poly_zero_lt (k : Nat) : Poly.deg (ρ.poly 0) < k := by
  rw [Poly.deg, trim_poly, poly_zero, List.length_nil]
  omega

theorem deg_mul_poly {f g : K[X]} (hf : ρ.poly f ≠ []) (hg : ρ.poly g ≠ []) :
    Poly.deg (ρ.poly (f * g)) = Poly.deg (ρ.poly f) + Poly.deg (ρ.poly g) := by
  have hf0 : f ≠ 0 := mt ρ.poly_eq_nil_iff.mpr hf
  have hg0 : g ≠ 0 := mt ρ.poly_eq_nil_iff.mpr hg
  rw [ρ.deg_poly hf0, ρ.deg_poly hg0, ρ.deg_poly (mul_ne_zero hf0 hg0), natDegree_mul hf0 hg0, Nat.cast_add]

theorem deg_poly_lt_iff {f g : K[X]} (hg : g ≠ 0) :
    Poly.deg (ρ.poly f) < Poly.deg (ρ.poly g) ↔ f.degree < g.degree := by
  rw [← ρ.length_poly_lt_iff hg, Poly.deg, Poly.deg, trim_poly, trim_poly]
  omega

theorem lead_poly (f : K[X]) : Poly.lead (ρ.poly f) = ρ.bits f.leadingCoeff := by
  by_cases hf : f = 0
  · rw [hf, poly_zero, leadingCoeff_zero, bits_zero, Poly.lead, coef_nil]
  · rw [Poly.lead, ρ.length_poly_eq hf, coef_poly, Nat.add_sub_cancel, leadingCoeff]

/-! ### The operations -/

theorem add_poly (f g : K[X]) : Poly.add (ρ.poly f) (ρ.poly g) = ρ.poly (f + g) :=
  ρ.trim_eq_poly fun j => by simp [ρ.bits_add]

theorem scale_poly (x : K) (f : K[X]) : Poly.scale A (ρ.bits x) (ρ.poly f) = ρ.poly (C x * f) :=
  ρ.trim_eq_poly fun j => by rw [coef_map (ρ.mul_bits_zero x), coef_poly, coeff_C_mul, ρ.bits_mul]

theorem shift_poly (s : Nat) (f : K[X]) : Poly.shift s (ρ.poly f) = ρ.poly (X ^ s * f) :=
  ρ.trim_eq_poly fun j => by
    rw [← coef_trim, ← Poly.shift, coef_shift, coeff_X_pow_mul', coef_poly]
    by_cases h : j < s
    · rw [if_pos h, if_neg (by omega), bits_zero]
    · rw [if_neg h, if_pos (by omega)]

theorem monomial_poly (x : K) (s : Nat) : Poly.monomial (ρ.bits x) s = ρ.poly (C x * X ^ s) :=
  ρ.trim_eq_poly fun j => by
    rw [← coef_trim, ← Poly.shift, coef_shift, coeff_C_mul_X_pow]
    by_cases h : j < s
    · rw [if_pos h, if_neg (by omega), bits_zero]
    · rw [if_neg h]
      by_cases hj : j = s
      · simp [hj]
      · rw [if_neg hj, bits_zero, coef_of_length_le (by simp; omega)]

/-- The first entry of a list is the constant term, and the rest is the list of the quotient by x. -/
theorem poly_eq_cons {f : K[X]} {a : Elem} {p : Poly} (h : ρ.poly f = a :: p) :
    a = ρ.bits (f.coeff 0) ∧ p = ρ.poly f.divX := by
  have hcoef (j : Nat) : Poly.coef (a :: p) j = ρ.bits (f.coeff j) := h ▸ ρ.coef_poly f j
  have hp : Poly.trim p = ρ.poly f.divX := ρ.trim_eq_poly fun j => by
    rw [← coef_cons_succ a, hcoef, coeff_divX]
  have hcons : Poly.trim (a :: p) = a :: p := h ▸ ρ.trim_poly f
  refine ⟨hcoef 0, ?_⟩
  by_cases hnil : Poly.trim p = []
  · rw [trim_cons_of_eq a hnil] at hcons
    split at hcons
    · cases hcons
    · rw [← hp, hnil, (List.cons.inj hcons).2]
  · rw [trim_cons_of_ne a hnil] at hcons
    rw [← hp, (List.cons.inj hcons).2]

theorem mul_poly (f g : K[X]) : Poly.mul A (ρ.poly f) (ρ.poly g) = ρ.poly (f * g) := by
  generalize hp : ρ.poly f = p
  induction p generalizing f with
  | nil => rw [ρ.poly_eq_nil_iff.mp hp, zero_mul, poly_zero, Poly.mul]
  | cons a p ih =>
    obtain ⟨rfl, rfl⟩ := ρ.poly_eq_cons hp
    rw [Poly.mul, ih f.divX rfl, scale_poly, shift_poly, add_poly]
    congr 1
    conv_rhs => rw [← divX_mul_X_add f]
    ring

/-- Coefficient j of a product is the convolution (41_poly_gf2.md R142, 42_poly_gf2m.md R162). -/
theorem conv_poly (f g : K[X]) (j : Nat) :
    conv A.mul (ρ.poly f) (ρ.poly g) j = ρ.bits ((f * g).coeff j) := by
  rw [coeff_mul, Finset.Nat.sum_antidiagonal_eq_sum_range_succ fun i k => f.coeff i * g.coeff k, bits_sum]
  simp only [conv, coef_poly, ρ.bits_mul]

theorem xorSum_coef_poly (f : K[X]) (k : Nat) :
    xorSum k (Poly.coef (ρ.poly f)) = ρ.bits (∑ j ∈ Finset.range k, f.coeff j) := by
  rw [ρ.bits_sum]
  exact congrArg (xorSum k) (funext (ρ.coef_poly f))

/-- Divisibility of the spec is that of K[X]. -/
theorem divides_iff {p : Poly} {f : K[X]} (hp : Poly.trim p = ρ.poly f) (g : K[X]) :
    Divides A.mul n p (ρ.poly g) ↔ f ∣ g := by
  refine ⟨fun ⟨q, hq, h⟩ => ?_, fun ⟨q, hq⟩ => ⟨ρ.poly q, ρ.coefs_poly q, fun j => ?_⟩⟩
  · obtain ⟨u, hu⟩ := ρ.exists_trim_eq_poly hq
    refine ⟨u, ?_⟩
    ext j
    apply ρ.bits_injective
    rw [← coef_poly, h, ← conv_trim, hu, hp, conv_poly, mul_comm]
  · rw [coef_poly, ← conv_trim, hp, trim_poly, conv_poly, hq, mul_comm]

theorem eval_poly (f : K[X]) (x : K) : Poly.eval A (ρ.poly f) (ρ.bits x) = ρ.bits (f.eval x) := by
  generalize hp : ρ.poly f = p
  induction p generalizing f with
  | nil =>
    rw [ρ.poly_eq_nil_iff.mp hp, eval_zero, bits_zero]
    rfl
  | cons a p ih =>
    obtain ⟨rfl, rfl⟩ := ρ.poly_eq_cons hp
    have htail : Poly.eval A (ρ.poly f.divX) (ρ.bits x) = ρ.bits (f.divX.eval x) := ih _ rfl
    calc Poly.eval A (ρ.bits (f.coeff 0) :: ρ.poly f.divX) (ρ.bits x)
      _ = A.mul (ρ.bits (f.divX.eval x)) (ρ.bits x) ^^^ ρ.bits (f.coeff 0) := by rw [← htail]; rfl
      _ = ρ.bits ((f.divX * X + C (f.coeff 0)).eval x) := by simp [ρ.bits_add, ρ.bits_mul]
      _ = ρ.bits (f.eval x) := by rw [divX_mul_X_add]

end Arith.FieldRep

end Sys2Proof.Machine
end

section
/-! Euclid in K[X]: a turn of the division loop, the monic gcd and the monic lcm; and the loops of division, gcd and
lcm on coefficient lists (41_poly_gf2.md R143, R145, R146, 42_poly_gf2m.md R163, R165, R166). -/

namespace Sys2Proof.Machine

open Polynomial

section
variable {K : Type} [Field K]

/-! ### Euclid in K[X] -/

theorem div_mod_unique {f g q r : K[X]} (h : q * g + r = f) (hr : r.degree < g.degree) :
    f / g = q ∧ f % g = r := by
  have hg : g ≠ 0 := ne_zero_of_degree_gt hr
  have hmod : f % g = r := by
    rw [← h, add_mod, (mod_eq_self_iff hg).mpr hr, EuclideanDomain.mod_eq_zero.mpr (dvd_mul_left g q), zero_add]
  refine ⟨mul_right_cancel₀ hg ?_, hmod⟩
  rw [← add_left_inj r, h, ← hmod, EuclideanDomain.div_add_mod']

theorem div_mod_sub_mul (f m : K[X]) {g : K[X]} (hg : g ≠ 0) :
    f / g = m + (f - m * g) / g ∧ f % g = (f - m * g) % g :=
  div_mod_unique (by rw [add_mul, add_assoc, EuclideanDomain.div_add_mod', add_sub_cancel]) (degree_mod_lt _ hg)

/-- The quotient term of one turn of the loop. -/
noncomputable def leadTerm (f g : K[X]) : K[X] :=
  C (f.leadingCoeff * g.leadingCoeff⁻¹) * X ^ (f.natDegree - g.natDegree)

/-- One turn of the loop takes the leading term off the dividend. -/
theorem degree_sub_leadTerm_mul_lt {f g : K[X]} (hf : f ≠ 0) (hg : g ≠ 0) (h : g.degree ≤ f.degree) :
    (f - leadTerm f g * g).degree < f.degree := by
  have hlead : f.leadingCoeff * g.leadingCoeff⁻¹ ≠ 0 :=
    mul_ne_zero (leadingCoeff_ne_zero.mpr hf) (inv_ne_zero (leadingCoeff_ne_zero.mpr hg))
  rw [leadTerm]
  refine degree_sub_lt_left ?_ hf ?_
  · rw [degree_mul, degree_C_mul_X_pow _ hlead, degree_eq_natDegree hf, degree_eq_natDegree hg]
    exact_mod_cast (Nat.sub_add_cancel (natDegree_le_natDegree h)).symm
  · rw [leadingCoeff_mul, leadingCoeff_C_mul_X_pow, inv_mul_cancel_right₀ (leadingCoeff_ne_zero.mpr hg)]

/-- `f` divided by its leading coefficient. -/
noncomputable def monicPart (f : K[X]) : K[X] := C f.leadingCoeff⁻¹ * f

theorem C_mul_monicPart (f : K[X]) : C f.leadingCoeff * monicPart f = f := by
  by_cases hf : f = 0
  · rw [monicPart, hf, mul_zero, mul_zero]
  · rw [monicPart, ← mul_assoc, ← C_mul, mul_inv_cancel₀ (leadingCoeff_ne_zero.mpr hf), C_1, one_mul]

@[simp] theorem monicPart_zero : monicPart (0 : K[X]) = 0 := mul_zero _

theorem monic_monicPart {f : K[X]} (hf : f ≠ 0) : (monicPart f).Monic := by
  rw [monicPart, mul_comm]
  exact monic_mul_leadingCoeff_inv hf

theorem monicPart_of_monic {f : K[X]} (hf : f.Monic) : monicPart f = f := by
  rw [monicPart, hf.leadingCoeff, inv_one, C_1, one_mul]

theorem monicPart_dvd_iff {f g : K[X]} : monicPart f ∣ g ↔ f ∣ g := by
  by_cases hf : f = 0
  · rw [hf, monicPart_zero]
  · exact C_mul_dvd (inv_ne_zero (leadingCoeff_ne_zero.mpr hf))

theorem dvd_monicPart_iff {f g : K[X]} : g ∣ monicPart f ↔ g ∣ f := by
  by_cases hf : f = 0
  · rw [hf, monicPart_zero]
  · exact dvd_C_mul (inv_ne_zero (leadingCoeff_ne_zero.mpr hf))

section
open scoped Classical

/-- The monic greatest common divisor; 0 for two zeros. -/
noncomputable def monicGcd (f g : K[X]) : K[X] := monicPart (EuclideanDomain.gcd g f)

theorem monicGcd_dvd_left (f g : K[X]) : monicGcd f g ∣ f := monicPart_dvd_iff.mpr (EuclideanDomain.gcd_dvd_right g f)

theorem monicGcd_dvd_right (f g : K[X]) : monicGcd f g ∣ g := monicPart_dvd_iff.mpr (EuclideanDomain.gcd_dvd_left g f)

theorem dvd_monicGcd {f g h : K[X]} (hf : h ∣ f) (hg : h ∣ g) : h ∣ monicGcd f g :=
  dvd_monicPart_iff.mpr (EuclideanDomain.dvd_gcd hg hf)

theorem monicGcd_zero (f : K[X]) : monicGcd f 0 = monicPart f := by
  rw [monicGcd, EuclideanDomain.gcd_zero_left]

end

theorem monicGcd_ne_zero {f g : K[X]} (h : f ≠ 0 ∨ g ≠ 0) : monicGcd f g ≠ 0 := fun h0 => by
  obtain h | h := h
  · exact h (zero_dvd_iff.mp (h0 ▸ monicGcd_dvd_left f g))
  · exact h (zero_dvd_iff.mp (h0 ▸ monicGcd_dvd_right f g))

/-- The monic least common multiple of nonzero polynomials. -/
noncomputable def monicLcm (f g : K[X]) : K[X] := monicPart (f * g / monicGcd f g)

/-- gcd · lcm is the product but for a constant. -/
theorem exists_monicGcd_mul_monicLcm {f g : K[X]} (hf : f ≠ 0) (hg : g ≠ 0) :
    ∃ x : K, x ≠ 0 ∧ (monicLcm f g).Monic ∧ C x * (monicGcd f g * monicLcm f g) = f * g := by
  have hprod : monicGcd f g * (f * g / monicGcd f g) = f * g :=
    EuclideanDomain.mul_div_cancel' (monicGcd_ne_zero (.inl hf)) ((monicGcd_dvd_left f g).mul_right g)
  have hne : f * g / monicGcd f g ≠ 0 := right_ne_zero_of_mul (hprod.symm ▸ mul_ne_zero hf hg)
  refine ⟨_, leadingCoeff_ne_zero.mpr hne, monic_monicPart hne, ?_⟩
  rw [mul_left_comm, monicLcm, C_mul_monicPart, hprod]

end

namespace Arith.FieldRep

variable {A : Arith} {n : Nat} {K : Type} [Field K] (ρ : A.FieldRep n K)

/-! ### Division -/

/-- What one turn of the loop adds to the quotient and to the remainder. -/
theorem turn_poly {f g : K[X]} (hf : f ≠ 0) (hg : g ≠ 0) (q : K[X]) :
    let s := (ρ.poly f).length - (ρ.poly g).length
    let c := A.mul (Poly.lead (ρ.poly f)) (ρ.bits g.leadingCoeff⁻¹)
    Poly.add (ρ.poly q) (Poly.monomial c s) = ρ.poly (q + leadTerm f g) ∧
      Poly.add (ρ.poly f) (Poly.shift s (Poly.scale A c (ρ.poly g))) = ρ.poly (f - leadTerm f g * g) := by
  have := ρ.charP_two
  rw [ρ.length_poly_eq hf, ρ.length_poly_eq hg, Nat.add_sub_add_right, lead_poly, ← ρ.bits_mul]
  dsimp only
  rw [monomial_poly, scale_poly, shift_poly, add_poly, add_poly, CharTwo.sub_eq_add, leadTerm, mul_left_comm,
    mul_assoc]
  exact ⟨rfl, rfl⟩

/-- The division loop with enough turns (41_poly_gf2.md R143, 42_poly_gf2m.md R163). -/
theorem divLoop_poly {g : K[X]} (hg : g ≠ 0) (k : Nat) (q f : K[X]) (hk : (ρ.poly f).length ≤ k) :
    Poly.divLoop A (ρ.poly g) (ρ.bits g.leadingCoeff⁻¹) k (ρ.poly q) (ρ.poly f) =
      (ρ.poly (q + f / g), ρ.poly (f % g)) := by
  have hlast {f : K[X]} (q : K[X]) (h : f.degree < g.degree) :
      (ρ.poly q, ρ.poly f) = (ρ.poly (q + f / g), ρ.poly (f % g)) := by
    rw [(Polynomial.div_eq_zero_iff hg).mpr h, add_zero, (mod_eq_self_iff hg).mpr h]
  induction k generalizing q f with
  | zero =>
    have hf : f = 0 := ρ.poly_eq_nil_iff.mp (List.length_eq_zero_iff.mp (Nat.le_zero.mp hk))
    exact hlast q (by simpa [hf, bot_lt_iff_ne_bot] using hg)
  | succ k ih =>
    rw [Poly.divLoop]
    split
    next hle =>
      have hdeg : g.degree ≤ f.degree := not_lt.mp fun h => hle.not_gt ((ρ.length_poly_lt_iff hg).mpr h)
      have hf : f ≠ 0 := ne_zero_of_degree_ge_degree hdeg hg
      have hlt := (ρ.length_poly_lt_iff hf).mpr (degree_sub_leadTerm_mul_lt hf hg hdeg)
      obtain ⟨hq, hr⟩ := ρ.turn_poly hf hg q
      obtain ⟨hdiv, hmod⟩ := div_mod_sub_mul f (leadTerm f g) hg
      dsimp only
      rw [hq, hr, ih _ _ (Nat.le_of_lt_succ (hlt.trans_le hk)), hdiv, hmod, add_assoc]
    next hle => exact hlast q ((ρ.length_poly_lt_iff hg).mp (Nat.not_le.mp hle))

theorem divMod_poly (f : K[X]) {g : K[X]} (hg : g ≠ 0) :
    Poly.divMod A (ρ.poly f) (ρ.poly g) = (ρ.poly (f / g), ρ.poly (f % g)) := by
  rw [Poly.divMod, if_neg (mt ρ.poly_eq_nil_iff.mp hg), lead_poly, ← ρ.bits_inv _ (leadingCoeff_ne_zero.mpr hg),
    ← ρ.poly_zero, ρ.divLoop_poly hg _ 0 f le_rfl, zero_add]

/-! ### Gcd and lcm -/

theorem gcdLoop_poly [DecidableEq K[X]] (k : Nat) (f g : K[X]) (hk : (ρ.poly g).length < k) :
    Poly.gcdLoop A k (ρ.poly f) (ρ.poly g) = ρ.poly (EuclideanDomain.gcd g f) := by
  induction k generalizing f g with
  | zero => exact absurd hk (Nat.not_lt_zero _)
  | succ k ih =>
    rw [Poly.gcdLoop]
    by_cases hg : g = 0
    · rw [if_pos (ρ.poly_eq_nil_iff.mpr hg), hg, EuclideanDomain.gcd_zero_left]
    · have hlt := (ρ.length_poly_lt_iff hg).mpr (degree_mod_lt f hg)
      rw [if_neg (mt ρ.poly_eq_nil_iff.mp hg), ρ.divMod_poly f hg,
        ih g _ (hlt.trans_le (Nat.le_of_lt_succ hk)), ← EuclideanDomain.gcd_val]

theorem monic_poly (f : K[X]) : Poly.monic A (ρ.poly f) = ρ.poly (monicPart f) := by
  rw [Poly.monic]
  by_cases hf : f = 0
  · rw [if_pos (ρ.poly_eq_nil_iff.mpr hf), hf, monicPart_zero, poly_zero]
  · rw [if_neg (mt ρ.poly_eq_nil_iff.mp hf), lead_poly, ← ρ.bits_inv _ (leadingCoeff_ne_zero.mpr hf), scale_poly,
      monicPart]

theorem gcd_poly (f g : K[X]) : Poly.gcd A (ρ.poly f) (ρ.poly g) = ρ.poly (monicGcd f g) := by
  classical
  rw [Poly.gcd, ρ.gcdLoop_poly _ f g (Nat.lt_succ_self _), monic_poly, monicGcd]

theorem lcm_poly {f g : K[X]} (hf : ρ.poly f ≠ []) (hg : ρ.poly g ≠ []) :
    Poly.lcm A (ρ.poly f) (ρ.poly g) = ρ.poly (monicLcm f g) := by
  have hG : monicGcd f g ≠ 0 := monicGcd_ne_zero (.inl (mt ρ.poly_eq_nil_iff.mpr hf))
  rw [Poly.lcm, if_neg (not_or.mpr ⟨hf, hg⟩), mul_poly, gcd_poly, ρ.divMod_poly _ hG, monic_poly, monicLcm]

theorem length_monicGcd_le {f g : K[X]} {k : Nat} (hf : (ρ.poly f).length ≤ k) (hg : (ρ.poly g).length ≤ k) :
    (ρ.poly (monicGcd f g)).length ≤ k := by
  by_cases hf0 : f = 0
  · by_cases hg0 : g = 0
    · rw [hf0, hg0, monicGcd_zero, monicPart_zero, poly_zero]
      exact Nat.zero_le k
    · exact (ρ.length_poly_mono (degree_le_of_dvd (monicGcd_dvd_right f g) hg0)).trans hg
  · exact (ρ.length_poly_mono (degree_le_of_dvd (monicGcd_dvd_left f g) hf0)).trans hf

/-- The degree that R146 checks is that of the product without that of the gcd. -/
theorem deg_lcm_poly {f g : K[X]} (hf : ρ.poly f ≠ []) (hg : ρ.poly g ≠ []) :
    Poly.deg (Poly.lcm A (ρ.poly f) (ρ.poly g)) =
      Poly.deg (ρ.poly f) + Poly.deg (ρ.poly g) - Poly.deg (Poly.gcd A (ρ.poly f) (ρ.poly g)) := by
  have hf0 : f ≠ 0 := mt ρ.poly_eq_nil_iff.mpr hf
  have hg0 : g ≠ 0 := mt ρ.poly_eq_nil_iff.mpr hg
  have hG : monicGcd f g ≠ 0 := monicGcd_ne_zero (.inl hf0)
  obtain ⟨x, hx, hmonic, hprod⟩ := exists_monicGcd_mul_monicLcm hf0 hg0
  have hsum : (monicGcd f g).natDegree + (monicLcm f g).natDegree = f.natDegree + g.natDegree := by
    rw [← natDegree_mul hf0 hg0, ← hprod, natDegree_C_mul hx, natDegree_mul hG hmonic.ne_zero]
  rw [ρ.lcm_poly hf hg, ρ.gcd_poly, ρ.deg_poly hf0, ρ.deg_poly hg0, ρ.deg_poly hmonic.ne_zero, ρ.deg_poly hG]
  omega

end Arith.FieldRep

end Sys2Proof.Machine
end

section
/-! The two coefficient fields of the engine: GF(2), and the field BUILDF built (00_scope.md R13, 40_field.md R127). -/

namespace Sys2Proof.Machine

/-! ### GF(2) -/

theorem zmod_two_eq_one {x : ZMod 2} (hx : x ≠ 0) : x = 1 := by
  decide +revert

/-- AND and XOR of bits are the field of two elements. -/
def gf2Rep : Arith.gf2.FieldRep 1 (ZMod 2) where
  bits x := BitVec.ofNat 16 x.val
  bits_injective := by decide
  bits_lt := by decide
  exists_bits v hv := by
    refine ⟨v.toNat, BitVec.eq_of_toNat_eq ?_⟩
    rw [ZMod.val_natCast_of_lt hv, BitVec.toNat_ofNat, Nat.mod_eq_of_lt v.isLt]
  bits_one := by decide
  bits_add := by decide
  bits_mul := by decide
  bits_inv x hx := by
    rw [zmod_two_eq_one hx, inv_one]
    rfl

/-! ### The laws of the table product -/

section
variable (F : FieldState)

theorem FieldState.mul_comm (a b : Elem) : F.mul a b = F.mul b a := by
  simp only [FieldState.mul, or_comm, Nat.add_comm]

theorem FieldState.zero_mul (a : Elem) : F.mul 0#16 a = 0#16 := if_pos (.inl rfl)

theorem FieldState.mul_zero (a : Elem) : F.mul a 0#16 = 0#16 := if_pos (.inr rfl)

end

section
variable {c : Params} {F : FieldState} (hc : c.Valid) (hF : fieldBuilt c F)
include hc hF

theorem FieldState.one_mul {a : Elem} (ha : a.toNat < 2 ^ F.deg) : F.mul 1#16 a = a := by
  by_cases h0 : a = 0#16
  · rw [h0, F.mul_zero]
  · obtain ⟨-, hlog⟩ := alphaPow_logAt hc hF h0 ha
    rw [← hlog, ← alphaPow_zero hc hF, mul_alphaPow hc hF, Nat.zero_add]

theorem FieldState.mul_assoc {a b d : Elem} (ha : a.toNat < 2 ^ F.deg) (hb : b.toNat < 2 ^ F.deg)
    (hd : d.toNat < 2 ^ F.deg) : F.mul (F.mul a b) d = F.mul a (F.mul b d) := by
  by_cases ha0 : a = 0#16
  · simp only [ha0, F.zero_mul]
  by_cases hb0 : b = 0#16
  · simp only [hb0, F.zero_mul, F.mul_zero]
  by_cases hd0 : d = 0#16
  · simp only [hd0, F.mul_zero]
  rw [← (alphaPow_logAt hc hF ha0 ha).2, ← (alphaPow_logAt hc hF hb0 hb).2, ← (alphaPow_logAt hc hF hd0 hd).2]
  simp only [mul_alphaPow hc hF, Nat.add_assoc]

theorem FieldState.mul_xor {a b x : Elem} (hx : x.toNat < 2 ^ F.deg) (ha : a.toNat < 2 ^ F.deg)
    (hb : b.toNat < 2 ^ F.deg) : F.mul x (a ^^^ b) = F.mul x a ^^^ F.mul x b := by
  rw [F.mul_comm, xor_mul hc hF ha hb hx, F.mul_comm a, F.mul_comm b]

end

/-! ### The built field -/

/-- The elements of the field in `F` (00_scope.md R12). -/
abbrev FieldState.Element (F : FieldState) : Type := { v : Elem // v.toNat < 2 ^ F.deg }

section
variable {c : Params} {F : FieldState} (hc : c.Valid) (hF : fieldBuilt c F)

/-- XOR and the table operations make the elements of a built field a field. -/
noncomputable abbrev FieldState.elementField : Field F.Element :=
  letI : Add F.Element := ⟨fun x y => ⟨x.1 ^^^ y.1, Nat.xor_lt_two_pow x.2 y.2⟩⟩
  letI : Mul F.Element := ⟨fun x y => ⟨F.mul x.1 y.1, mul_lt hc hF⟩⟩
  letI : Neg F.Element := ⟨id⟩
  letI : Inv F.Element := ⟨fun x => if x.1 = 0#16 then x else ⟨F.inv x.1, alphaPow_lt hc hF _⟩⟩
  letI : Zero F.Element := ⟨⟨0#16, Nat.two_pow_pos _⟩⟩
  letI : One F.Element := ⟨⟨1#16, Nat.one_lt_two_pow (Nat.one_le_iff_ne_zero.mp hF.1)⟩⟩
  Field.ofMinimalAxioms F.Element
    (add_assoc := fun _ _ _ => Subtype.ext (BitVec.xor_assoc ..))
    (zero_add := fun _ => Subtype.ext BitVec.zero_xor)
    (neg_add_cancel := fun _ => Subtype.ext BitVec.xor_self)
    (mul_assoc := fun x y z => Subtype.ext (FieldState.mul_assoc hc hF x.2 y.2 z.2))
    (mul_comm := fun _ _ => Subtype.ext (F.mul_comm ..))
    (one_mul := fun x => Subtype.ext (FieldState.one_mul hc hF x.2))
    (mul_inv_cancel := fun x hx =>
      have h0 : x.1 ≠ 0#16 := fun h => hx (Subtype.ext h)
      Subtype.ext ((congrArg (fun y : F.Element => F.mul x.1 y.1) (if_neg h0)).trans (mul_inv hc hF h0 x.2)))
    (inv_zero := if_pos rfl)
    (left_distrib := fun x y z => Subtype.ext (FieldState.mul_xor hc hF x.2 y.2 z.2))
    (exists_pair_ne := ⟨0, 1, fun h => absurd (congrArg Subtype.val h) (by decide : 0#16 ≠ 1#16)⟩)

include hc hF in
/-- The coefficients of the GF(2^m) commands are a field. -/
theorem exists_fieldRep : ∃ (K : Type) (_ : Field K), Nonempty (F.arith.FieldRep F.deg K) :=
  letI := FieldState.elementField hc hF
  ⟨F.Element, inferInstance,
    ⟨{ bits := Subtype.val
       bits_injective := Subtype.val_injective
       bits_lt := Subtype.property
       exists_bits := fun v hv => ⟨⟨v, hv⟩, rfl⟩
       bits_one := rfl
       bits_add := fun _ _ => rfl
       bits_mul := fun _ _ => rfl
       bits_inv := fun _ hx => congrArg Subtype.val (if_neg fun h => hx (Subtype.ext h)) }⟩⟩

end

end Sys2Proof.Machine
end

section
/-! The polynomial commands on the polynomials of K[X] that their operands are (41_poly_gf2.md, 42_poly_gf2m.md). The
GF(2) and the GF(2^m) command of a pair have one proof. -/

namespace Sys2Proof.Machine

open Sys2Proof.Spec Polynomial

/-! ### Evaluation of lists -/

theorem map_coef_range (p : Poly) : (List.range p.length).map (Poly.coef p) = p :=
  List.ext_getElem (by simp) fun j _ hj => by
    rw [List.getElem_map, List.getElem_range, Poly.coef, List.getD_eq_getElem _ _ hj]

/-- Horner's loop reads the coefficients from the highest down (42_poly_gf2m.md R164). -/
theorem eval_eq_foldl (A : Arith) (p : Poly) (x : Elem) : Poly.eval A p x =
    (List.range p.length).reverse.foldl (fun v j => A.mul v x ^^^ Poly.coef p j) 0 := by
  conv_lhs => rw [← map_coef_range p]
  rw [Poly.eval, List.foldr_map, List.foldl_reverse]

/-- The coefficients past the end of a list do not matter to their sum. -/
theorem foldl_xor_eq_xorSum {p : Poly} {k : Nat} (hk : p.length ≤ k) :
    p.foldl (fun v x => v ^^^ x) 0 = xorSum k (Poly.coef p) := by
  induction k, hk using Nat.le_induction with
  | base =>
    conv_lhs => rw [← map_coef_range p]
    rw [List.foldl_map, xorSum]
  | succ k hk ih => rw [xorSum_succ, coef_of_length_le hk, ← ih, BitVec.xor_zero]

theorem lowBits_one_eq_zero_iff (v : Elem) : lowBits 1 v = 0#16 ↔ v.getLsbD 0 = false := by
  rw [← BitVec.toNat_inj, lowBits_toNat, BitVec.getLsbD, Nat.testBit_zero, decide_eq_false_iff_not]
  simp

/-! ### Operands and results -/

theorem finishIfFits_of_lt {s : State} {d : PReg} {g : Int} {P : Poly} (h : g < s.cfg.polyLen) :
    finishIfFits s d g P = finish (s.writeP d P) := if_neg (not_le.mpr h)

theorem finishIfFits_of_le {s : State} {d : PReg} {g : Int} {P : Poly} (h : s.cfg.polyLen ≤ g) :
    finishIfFits s d g P = .next (erroring s 0x0B) := if_pos h

section
variable {A : Arith} {n : Nat} {K : Type} [Field K] (ρ : A.FieldRep n K)

namespace Arith.FieldRep

/-- The projection of a register is the list of a polynomial that the register can hold. -/
theorem exists_proj_eq_poly {c : Params} {P : Poly} (hP : polyFits c P) :
    ∃ f, Poly.proj n P = ρ.poly f ∧ (ρ.poly f).length ≤ c.polyLen := by
  obtain ⟨-, hlen, -⟩ := hP
  have hcoefs : Coefs n (P.map (lowBits n)) := fun x hx => by
    obtain ⟨y, -, rfl⟩ := List.mem_map.mp hx
    exact lowBits_lt n y
  obtain ⟨f, hf⟩ := ρ.exists_trim_eq_poly hcoefs
  exact ⟨f, hf, hf ▸ (trim_length_le _).trans (by rwa [List.length_map])⟩

variable {s : State} (hn : n ≤ s.cfg.mMax)
include hn

theorem storePoly_poly {f : K[X]} (hf : (ρ.poly f).length ≤ s.cfg.polyLen) :
    storePoly s.cfg (ρ.poly f) = ρ.poly f :=
  storePoly_of_fits (ρ.trim_poly f) hf fun x hx =>
    (ρ.coefs_poly f x hx).trans_le (Nat.pow_le_pow_right Nat.two_pos hn)

theorem wroteP_of_finish_poly {d : PReg} {f : K[X]} (hf : (ρ.poly f).length ≤ s.cfg.polyLen) :
    ∃ t, finish (s.writeP d (ρ.poly f)) = .next t ∧ WroteP s t d ∧ t.readP d = ρ.poly f :=
  ⟨_, rfl, wroteP_complete s d _, (readP_writeP_complete s d _).trans (ρ.storePoly_poly hn hf)⟩

theorem wroteP_of_finishIfFits (d : PReg) {f : K[X]} (hf : Poly.deg (ρ.poly f) < s.cfg.polyLen) :
    ∃ t, finishIfFits s d (Poly.deg (ρ.poly f)) (ρ.poly f) = .next t ∧ WroteP s t d ∧ t.readP d = ρ.poly f := by
  rw [finishIfFits_of_lt hf]
  rw [Poly.deg, ρ.trim_poly] at hf
  exact ρ.wroteP_of_finish_poly hn (by omega)

theorem wrotePP_of_finish_poly {d c : PReg} (hdc : d ≠ c) {q r : K[X]} (hq : (ρ.poly q).length ≤ s.cfg.polyLen)
    (hr : (ρ.poly r).length ≤ s.cfg.polyLen) :
    ∃ t, finish ((s.writeP d (ρ.poly q)).writeP c (ρ.poly r)) = .next t ∧ WrotePP s t d c ∧
      t.readP d = ρ.poly q ∧ t.readP c = ρ.poly r := by
  refine ⟨_, rfl, ⟨rfl, fun i hid hic => ?_⟩, ?_, ?_⟩
  · rw [readP_congr (State.complete_p _), readP_writeP, if_neg hic, readP_writeP, if_neg hid]
  · rw [readP_congr (State.complete_p _), readP_writeP, if_neg hdc, readP_writeP, if_pos rfl,
      ρ.storePoly_poly hn hq]
  · rw [readP_writeP_complete]
    exact ρ.storePoly_poly hn hr

theorem wroteE_of_finish_bits {d : EReg} (x : K) :
    ∃ t, finish (s.writeE d (ρ.bits x)) = .next t ∧ WroteE s t d ∧ t.readE d = ρ.bits x :=
  ⟨_, rfl, wroteE_complete s d _, (readE_writeE_complete s d _).trans
    (storeElem_of_lt ((ρ.bits_lt x).trans_le (Nat.pow_le_pow_right Nat.two_pos hn)))⟩

end Arith.FieldRep

end

/-! ### What the two commands of a pair share -/

/-- PMUL2 and PMULM on operands already read. -/
def mulOutcome (A : Arith) (s : State) (d : PReg) (P Q : Poly) : Result :=
  if P = [] ∨ Q = [] then finish (s.writeP d []) else finishIfFits s d (Poly.deg P + Poly.deg Q) (Poly.mul A P Q)

/-- PDIV2 and PDIVM on operands already read and different destinations. -/
def divOutcome (A : Arith) (s : State) (d c : PReg) (P Q : Poly) : Result :=
  if Q = [] then raise .divisionByZeroPolynomial s
  else finish ((s.writeP d (Poly.divMod A P Q).1).writeP c (Poly.divMod A P Q).2)

/-- PLCM2 and PLCMM on operands already read. -/
def lcmOutcome (A : Arith) (s : State) (d : PReg) (P Q : Poly) : Result :=
  finishIfFits s d (Poly.deg (Poly.lcm A P Q)) (Poly.lcm A P Q)

/-- The product is written where it fits, the zero product always. -/
theorem Arith.FieldRep.mulOutcome_poly {A : Arith} {n : Nat} {K : Type} [Field K] (ρ : A.FieldRep n K) (s : State)
    (d : PReg) (f g : K[X]) : mulOutcome A s d (ρ.poly f) (ρ.poly g) =
      finishIfFits s d (Poly.deg (ρ.poly (f * g))) (ρ.poly (f * g)) := by
  rw [mulOutcome]
  split
  next hzero =>
    have hfg : f * g = 0 := mul_eq_zero.mpr (by simpa using hzero)
    rw [hfg, finishIfFits_of_lt (ρ.deg_poly_zero_lt _), ρ.poly_zero]
  next hne =>
    obtain ⟨hf0, hg0⟩ := not_or.mp hne
    rw [ρ.mul_poly, ρ.deg_mul_poly hf0 hg0]

section
variable {s : State}

theorem exec_padd2 (d a b : PReg) :
    exec (.padd2 d a b) s = finish (s.writeP d (Poly.add (s.proj2 a) (s.proj2 b))) := rfl

theorem exec_pmul2 (d a b : PReg) : exec (.pmul2 d a b) s = mulOutcome Arith.gf2 s d (s.proj2 a) (s.proj2 b) := rfl

theorem exec_pdiv2 {d c : PReg} (hdc : d ≠ c) (a b : PReg) :
    exec (.pdiv2 d c a b) s = divOutcome Arith.gf2 s d c (s.proj2 a) (s.proj2 b) := if_neg hdc

theorem exec_peval2 (d : EReg) (a : PReg) (b : EReg) : exec (.peval2 d a b) s =
    finish (s.writeE d (if s.bitReg b = 0 then Poly.coef (s.proj2 a) 0
      else (s.proj2 a).foldl (fun v x => v ^^^ x) 0)) := rfl

theorem exec_pgcd2 (d a b : PReg) :
    exec (.pgcd2 d a b) s = finish (s.writeP d (Poly.gcd Arith.gf2 (s.proj2 a) (s.proj2 b))) := rfl

theorem exec_plcm2 (d a b : PReg) : exec (.plcm2 d a b) s = lcmOutcome Arith.gf2 s d (s.proj2 a) (s.proj2 b) := rfl

variable (hfv : s.field.fv = true)
include hfv

theorem exec_paddm (d a b : PReg) :
    exec (.paddm d a b) s = finish (s.writeP d (Poly.add (s.projm a) (s.projm b))) := if_pos hfv

theorem exec_pmulm (d a b : PReg) :
    exec (.pmulm d a b) s = mulOutcome s.field.arith s d (s.projm a) (s.projm b) := if_pos hfv

theorem exec_pdivm {d c : PReg} (hdc : d ≠ c) (a b : PReg) :
    exec (.pdivm d c a b) s = divOutcome s.field.arith s d c (s.projm a) (s.projm b) :=
  (if_neg hdc).trans (if_pos hfv)

theorem exec_pevalm (d : EReg) (a : PReg) (b : EReg) : exec (.pevalm d a b) s =
    finish (s.writeE d (Poly.eval s.field.arith (s.projm a) (s.feReg b))) := if_pos hfv

end

/-! ### The outcomes -/

section
variable {A : Arith} {n : Nat} {K : Type} [Field K] (ρ : A.FieldRep n K) {s : State} (hn : n ≤ s.cfg.mMax)
  {P Q : Poly} (hP : polyFits s.cfg P) (hQ : polyFits s.cfg Q)
include ρ hn hP hQ

/-- PADD2 and PADDM (41_poly_gf2.md R141, 42_poly_gf2m.md R161). -/
theorem sum_outcome (d : PReg) :
    ∃ t, finish (s.writeP d (Poly.add (Poly.proj n P) (Poly.proj n Q))) = .next t ∧ WroteP s t d ∧
      ∀ j, Poly.coef (t.readP d) j = lowBits n (Poly.coef P j) ^^^ lowBits n (Poly.coef Q j) := by
  obtain ⟨f, hf, hfl⟩ := ρ.exists_proj_eq_poly hP
  obtain ⟨g, hg, hgl⟩ := ρ.exists_proj_eq_poly hQ
  have hlen : (ρ.poly (f + g)).length ≤ s.cfg.polyLen := ρ.length_poly_le_iff.mpr <|
    (degree_add_le f g).trans_lt (max_lt (ρ.length_poly_le_iff.mp hfl) (ρ.length_poly_le_iff.mp hgl))
  have hadd : Poly.add (Poly.proj n P) (Poly.proj n Q) = ρ.poly (f + g) := by rw [hf, hg, ρ.add_poly]
  obtain ⟨t, hx, hw, ht⟩ := ρ.wroteP_of_finish_poly hn (d := d) hlen
  refine ⟨t, hadd ▸ hx, hw, fun j => ?_⟩
  rw [ht, ← hadd, coef_add, coef_proj, coef_proj]

/-- PMUL2 and PMULM (41_poly_gf2.md R142, 42_poly_gf2m.md R162). -/
theorem product_outcome (d : PReg) :
    (Poly.proj n P = [] ∨ Poly.proj n Q = [] ∨
        Poly.deg (Poly.proj n P) + Poly.deg (Poly.proj n Q) < s.cfg.polyLen →
      ∃ t, mulOutcome A s d (Poly.proj n P) (Poly.proj n Q) = .next t ∧ WroteP s t d ∧
        ∀ j, Poly.coef (t.readP d) j = conv A.mul (Poly.proj n P) (Poly.proj n Q) j) ∧
    (Poly.proj n P ≠ [] → Poly.proj n Q ≠ [] →
        s.cfg.polyLen ≤ Poly.deg (Poly.proj n P) + Poly.deg (Poly.proj n Q) →
      mulOutcome A s d (Poly.proj n P) (Poly.proj n Q) = .next (erroring s 0x0B)) := by
  obtain ⟨f, hf, -⟩ := ρ.exists_proj_eq_poly hP
  obtain ⟨g, hg, -⟩ := ρ.exists_proj_eq_poly hQ
  rw [hf, hg, ρ.mulOutcome_poly]
  refine ⟨fun h => ?_, fun hf0 hg0 hle => finishIfFits_of_le (ρ.deg_mul_poly hf0 hg0 ▸ hle)⟩
  have hlt : Poly.deg (ρ.poly (f * g)) < s.cfg.polyLen := by
    by_cases hzero : f * g = 0
    · exact hzero ▸ ρ.deg_poly_zero_lt s.cfg.polyLen
    · obtain ⟨hf0, hg0⟩ := mul_ne_zero_iff.mp hzero
      rw [ρ.deg_mul_poly (mt ρ.poly_eq_nil_iff.mp hf0) (mt ρ.poly_eq_nil_iff.mp hg0)]
      simpa [hf0, hg0] using h
  obtain ⟨t, hx, hw, ht⟩ := ρ.wroteP_of_finishIfFits hn d hlt
  refine ⟨t, hx, hw, fun j => ?_⟩
  rw [ht, ρ.coef_poly, ρ.conv_poly]

/-- PDIV2 and PDIVM (41_poly_gf2.md R143, 42_poly_gf2m.md R163). -/
theorem division_outcome {d c : PReg} (hdc : d ≠ c) :
    (Poly.proj n Q ≠ [] → ∃ t, divOutcome A s d c (Poly.proj n P) (Poly.proj n Q) = .next t ∧ WrotePP s t d c ∧
      Coefs n (t.readP d) ∧ Coefs n (t.readP c) ∧
      (∀ j, Poly.coef (Poly.proj n P) j =
        conv A.mul (t.readP d) (Poly.proj n Q) j ^^^ Poly.coef (t.readP c) j) ∧
      Poly.deg (t.readP c) < Poly.deg (Poly.proj n Q)) ∧
    (Poly.proj n Q = [] → divOutcome A s d c (Poly.proj n P) (Poly.proj n Q) = .next (erroring s 0x04)) := by
  obtain ⟨f, hf, hfl⟩ := ρ.exists_proj_eq_poly hP
  obtain ⟨g, hg, hgl⟩ := ρ.exists_proj_eq_poly hQ
  rw [hf, hg]
  refine ⟨fun hne => ?_, fun hnil => if_pos hnil⟩
  have hg0 : g ≠ 0 := mt ρ.poly_eq_nil_iff.mpr hne
  have hr := degree_mod_lt f hg0
  obtain ⟨t, hx, hw, htd, htc⟩ := ρ.wrotePP_of_finish_poly hn hdc
    ((ρ.length_poly_mono (degree_div_le f g)).trans hfl) ((ρ.length_poly_mono hr.le).trans hgl)
  refine ⟨t, ?_, hw, htd ▸ ρ.coefs_poly _, htc ▸ ρ.coefs_poly _, fun j => ?_, ?_⟩
  · rw [divOutcome, if_neg hne, ρ.divMod_poly f hg0, ← hx]
  · rw [htd, htc, ρ.conv_poly, ρ.coef_poly, ρ.coef_poly, ← ρ.bits_add, ← coeff_add, EuclideanDomain.div_add_mod']
  · rw [htc]
    exact (ρ.deg_poly_lt_iff hg0).mpr hr

/-- PGCD2 and PGCDM (41_poly_gf2.md R145, 42_poly_gf2m.md R165). -/
theorem gcd_outcome (d : PReg) :
    ∃ t, finish (s.writeP d (Poly.gcd A (Poly.proj n P) (Poly.proj n Q))) = .next t ∧ WroteP s t d ∧
      t.readP d = Poly.gcd A (Poly.proj n P) (Poly.proj n Q) ∧ Coefs n (t.readP d) ∧
      Divides A.mul n (t.readP d) (Poly.proj n P) ∧ Divides A.mul n (t.readP d) (Poly.proj n Q) ∧
      ∀ h : Poly, Coefs n h → Divides A.mul n h (Poly.proj n P) → Divides A.mul n h (Poly.proj n Q) →
        Divides A.mul n h (t.readP d) := by
  obtain ⟨f, hf, hfl⟩ := ρ.exists_proj_eq_poly hP
  obtain ⟨g, hg, hgl⟩ := ρ.exists_proj_eq_poly hQ
  obtain ⟨t, hx, hw, ht⟩ := ρ.wroteP_of_finish_poly hn (d := d) (ρ.length_monicGcd_le hfl hgl)
  rw [hf, hg, ρ.gcd_poly]
  refine ⟨t, hx, hw, ht, ht ▸ ρ.coefs_poly _, ?_, ?_, fun h hh => ?_⟩
  · exact ht ▸ (ρ.divides_iff (ρ.trim_poly _) _).mpr (monicGcd_dvd_left f g)
  · exact ht ▸ (ρ.divides_iff (ρ.trim_poly _) _).mpr (monicGcd_dvd_right f g)
  · obtain ⟨u, hu⟩ := ρ.exists_trim_eq_poly hh
    rw [ht, ρ.divides_iff hu, ρ.divides_iff hu, ρ.divides_iff hu]
    exact dvd_monicGcd

/-- PLCM2 and PLCMM: the check is by the degree of the result alone (41_poly_gf2.md R146, 42_poly_gf2m.md R166). -/
theorem lcm_outcome (d : PReg) :
    let k := Poly.deg (Poly.proj n P) + Poly.deg (Poly.proj n Q) - Poly.deg (Poly.gcd A (Poly.proj n P) (Poly.proj n Q))
    (Poly.proj n P = [] ∨ Poly.proj n Q = [] → ∃ t,
      lcmOutcome A s d (Poly.proj n P) (Poly.proj n Q) = .next t ∧ WroteP s t d ∧ t.readP d = []) ∧
    (Poly.proj n P ≠ [] → Poly.proj n Q ≠ [] → k < s.cfg.polyLen → ∃ t,
      lcmOutcome A s d (Poly.proj n P) (Poly.proj n Q) = .next t ∧ WroteP s t d ∧
        t.readP d = Poly.lcm A (Poly.proj n P) (Poly.proj n Q)) ∧
    (Poly.proj n P ≠ [] → Poly.proj n Q ≠ [] → s.cfg.polyLen ≤ k →
      lcmOutcome A s d (Poly.proj n P) (Poly.proj n Q) = .next (erroring s 0x0B)) := by
  obtain ⟨f, hf, -⟩ := ρ.exists_proj_eq_poly hP
  obtain ⟨g, hg, -⟩ := ρ.exists_proj_eq_poly hQ
  rw [hf, hg]
  refine ⟨fun hzero => ?_, fun hf0 hg0 hlt => ?_, fun hf0 hg0 hle => ?_⟩
  · have hL : Poly.lcm A (ρ.poly f) (ρ.poly g) = ρ.poly 0 := (if_pos hzero).trans ρ.poly_zero.symm
    rw [lcmOutcome, hL, ← ρ.poly_zero]
    exact ρ.wroteP_of_finishIfFits hn d (ρ.deg_poly_zero_lt _)
  · rw [← ρ.deg_lcm_poly hf0 hg0] at hlt
    rw [lcmOutcome]
    rw [ρ.lcm_poly hf0 hg0] at hlt ⊢
    exact ρ.wroteP_of_finishIfFits hn d hlt
  · rw [← ρ.deg_lcm_poly hf0 hg0] at hle
    exact finishIfFits_of_le hle

end

/-! ### What only GF(2) has -/

/-- Over GF(2) the leading coefficient of a nonzero polynomial is 1. -/
theorem monicPart_gf2 (f : (ZMod 2)[X]) : monicPart f = f := by
  by_cases hf : f = 0
  · rw [hf, monicPart_zero]
  · exact monicPart_of_monic (zmod_two_eq_one (leadingCoeff_ne_zero.mpr hf))

theorem conv_and2_poly (f g : (ZMod 2)[X]) (j : Nat) :
    conv and2 (gf2Rep.poly f) (gf2Rep.poly g) j = gf2Rep.bits ((f * g).coeff j) := gf2Rep.conv_poly f g j

theorem exec_peval2_poly {s : State} {a : PReg} {f : (ZMod 2)[X]} (hf : s.proj2 a = gf2Rep.poly f)
    (hlen : (gf2Rep.poly f).length ≤ s.cfg.polyLen) (d b : EReg) :
    exec (.peval2 d a b) s = finish (s.writeE d (gf2Rep.bits
      (if (s.readE b).getLsbD 0 then ∑ j ∈ Finset.range s.cfg.polyLen, f.coeff j else f.coeff 0))) := by
  have hbit : s.bitReg b = 0 ↔ (s.readE b).getLsbD 0 = false := lowBits_one_eq_zero_iff _
  rw [exec_peval2, hf, foldl_xor_eq_xorSum hlen, gf2Rep.xorSum_coef_poly, gf2Rep.coef_poly]
  cases hv : (s.readE b).getLsbD 0 with
  | false => rw [if_pos (hbit.mpr hv), if_neg Bool.false_ne_true]
  | true => rw [if_neg (mt hbit.mp (ne_false_of_eq_true hv)), if_pos rfl]

/-! ### The obligations -/

theorem one_le_mMax {s : State} (h : s.Inv) : 1 ≤ s.cfg.mMax := h.cfgValid.1.1

theorem deg_le_mMax {s : State} (h : s.Inv) (hfv : s.field.fv = true) : s.field.deg ≤ s.cfg.mMax :=
  (h.fieldOn hfv).2.1

/-- Settles O37: the product in K[X] has the degree the check adds up, and the coefficients of the convolution. -/
theorem productsAreConvolutions : Obligations.ProductsAreConvolutions := by
  refine ⟨fun s d a b h => ?_, fun s d a b h hfv => ?_⟩
  · rw [exec_pmul2]
    exact product_outcome gf2Rep (one_le_mMax h) (h.polysFit a) (h.polysFit b) d
  · obtain ⟨K, _, ⟨ρ⟩⟩ := exists_fieldRep h.cfgValid (h.fieldOn hfv)
    rw [exec_pmulm hfv]
    exact product_outcome ρ (deg_le_mMax h hfv) (h.polysFit a) (h.polysFit b) d

/-- Settles O38: the loop's results are quotient and remainder in K[X]. -/
theorem divisionsAreEuclidean : Obligations.DivisionsAreEuclidean := by
  refine ⟨fun s d c a b h hdc => ?_, fun s d c a b h hfv hdc => ?_⟩
  · rw [exec_pdiv2 hdc]
    exact division_outcome gf2Rep (one_le_mMax h) (h.polysFit a) (h.polysFit b) hdc
  · obtain ⟨K, _, ⟨ρ⟩⟩ := exists_fieldRep h.cfgValid (h.fieldOn hfv)
    rw [exec_pdivm hfv hdc]
    exact division_outcome ρ (deg_le_mMax h hfv) (h.polysFit a) (h.polysFit b) hdc

/-- Settles O40: `gcd_outcome` over GF(2); with b = 0 the loop ends at a, which is monic. -/
theorem pgcd2IsTheGreatestCommonDivisor : Obligations.Pgcd2IsTheGreatestCommonDivisor := by
  intro s d a b h
  obtain ⟨t, hx, hw, ht, hcoefs, hda, hdb, hgreatest⟩ :=
    gcd_outcome gf2Rep (one_le_mMax h) (h.polysFit a) (h.polysFit b) d
  refine ⟨t, (exec_pgcd2 d a b).trans hx, hw, ht, hcoefs, hda, hdb, hgreatest, fun hnil => ?_⟩
  obtain ⟨f, hf, -⟩ := gf2Rep.exists_proj_eq_poly (h.polysFit a)
  have hb : Poly.proj 1 (s.readP b) = gf2Rep.poly 0 := hnil.trans gf2Rep.poly_zero.symm
  rw [ht, State.proj2, hf, hb, gf2Rep.gcd_poly, monicGcd_zero, monicPart_gf2]

/-- Settles O41: `lcm_outcome` over GF(2), where the constant between gcd · lcm and the product is 1. -/
theorem plcm2TimesGcdIsTheProduct : Obligations.Plcm2TimesGcdIsTheProduct := by
  intro s d a b h
  obtain ⟨hzero, hfits, hover⟩ := lcm_outcome gf2Rep (one_le_mMax h) (h.polysFit a) (h.polysFit b) d
  refine ⟨hzero, fun ha hb hlt => ?_, hover⟩
  obtain ⟨t, hx, hw, ht⟩ := hfits ha hb hlt
  obtain ⟨f, hf, -⟩ := gf2Rep.exists_proj_eq_poly (h.polysFit a)
  obtain ⟨g, hg, -⟩ := gf2Rep.exists_proj_eq_poly (h.polysFit b)
  simp only [State.proj2, hf, hg] at ha hb ⊢
  rw [hf, hg, gf2Rep.lcm_poly ha hb] at ht
  obtain ⟨x, hx0, -, hprod⟩ := exists_monicGcd_mul_monicLcm (mt gf2Rep.poly_eq_nil_iff.mpr ha)
    (mt gf2Rep.poly_eq_nil_iff.mpr hb)
  rw [zmod_two_eq_one hx0, C_1, one_mul] at hprod
  refine ⟨t, (exec_plcm2 d a b).trans hx, hw, ht ▸ gf2Rep.coefs_poly _, fun j => ?_⟩
  rw [ht, gf2Rep.gcd_poly, conv_and2_poly, conv_and2_poly, hprod]

/-- Settles O36: both commands store the sum in K[X], coefficient by coefficient. -/
theorem polynomialSums : Obligations.PolynomialSums := by
  refine fun s d a b h => ⟨?_, fun hfv => ?_⟩
  · rw [exec_padd2]
    exact sum_outcome gf2Rep (one_le_mMax h) (h.polysFit a) (h.polysFit b) d
  · obtain ⟨K, _, ⟨ρ⟩⟩ := exists_fieldRep h.cfgValid (h.fieldOn hfv)
    rw [exec_paddm hfv]
    exact sum_outcome ρ (deg_le_mMax h hfv) (h.polysFit a) (h.polysFit b) d

/-- Settles O39: PEVAL2 stores coefficient 0 or the sum of all, PEVALM the value of the polynomial in K[X]. -/
theorem polynomialEvaluation : Obligations.PolynomialEvaluation := by
  refine fun s d a b h => ⟨?_, fun hfv => ?_⟩
  · obtain ⟨f, hf, hlen⟩ := gf2Rep.exists_proj_eq_poly (h.polysFit a)
    obtain ⟨t, hx, hw, ht⟩ := gf2Rep.wroteE_of_finish_bits (one_le_mMax h) (d := d)
      (if (s.readE b).getLsbD 0 then ∑ j ∈ Finset.range s.cfg.polyLen, f.coeff j else f.coeff 0)
    refine ⟨t, (exec_peval2_poly hf hlen d b).trans hx, hw, fun h0 => ?_, fun h1 => ?_⟩
    · rw [ht, if_neg (Bool.eq_false_iff.mp h0), State.proj2, hf, gf2Rep.coef_poly]
    · rw [ht, if_pos h1, State.proj2, hf, gf2Rep.xorSum_coef_poly]
  · obtain ⟨K, _, ⟨ρ⟩⟩ := exists_fieldRep h.cfgValid (h.fieldOn hfv)
    obtain ⟨f, hf, -⟩ := ρ.exists_proj_eq_poly (h.polysFit a)
    obtain ⟨x, hxb⟩ := ρ.exists_bits _ (feReg_lt s b)
    obtain ⟨t, hx, hw, ht⟩ := ρ.wroteE_of_finish_bits (deg_le_mMax h hfv) (d := d) (f.eval x)
    rw [← ρ.eval_poly, ← hf, hxb] at hx ht
    refine ⟨t, (exec_pevalm hfv d a b).trans hx, hw, ht.trans (eval_eq_foldl ..), ht, fun h0 => ?_⟩
    have hx0 : x = 0 := ρ.bits_eq_zero_iff.mp (hxb.trans h0)
    rw [ht, ← hxb, hf, ρ.eval_poly, hx0, ← coeff_zero_eq_eval_zero, State.projm, hf, ρ.coef_poly]

end Sys2Proof.Machine
end

section
/-! The monic gcd and lcm over the built field (42_poly_gf2m.md R165, R166), and the GF(2^m) commands on 0/1 coefficients
(R167): GF(2) embeds in the built field with the same bits, and each operation of K[X] commutes with the embedding. -/

namespace Sys2Proof.Machine

open Sys2Proof.Spec Polynomial

/-! ### Monic results -/

section
variable {K : Type} [Field K] {f g : K[X]}

theorem monicGcd_eq_zero_iff : monicGcd f g = 0 ↔ f = 0 ∧ g = 0 := by
  refine ⟨fun h => ?_, fun ⟨hf, hg⟩ => by rw [hf, hg, monicGcd_zero, monicPart_zero]⟩
  by_contra hne
  exact monicGcd_ne_zero (not_and_or.mp hne) h

theorem monic_monicGcd (h : f ≠ 0 ∨ g ≠ 0) : (monicGcd f g).Monic :=
  monic_monicPart fun h0 => monicGcd_ne_zero h (by rw [monicGcd, h0, monicPart_zero])

theorem Arith.FieldRep.lead_poly_of_monic {A : Arith} {n : Nat} (ρ : A.FieldRep n K) (hf : f.Monic) :
    Poly.lead (ρ.poly f) = 1 := by
  rw [ρ.lead_poly, hf.leadingCoeff]
  exact ρ.bits_one

end

section
variable {s : State} (hfv : s.field.fv = true)
include hfv

theorem exec_pgcdm (d a b : PReg) : exec (.pgcdm d a b) s =
    finish (s.writeP d (Poly.gcd s.field.arith (s.projm a) (s.projm b))) := if_pos hfv

theorem exec_plcmm (d a b : PReg) :
    exec (.plcmm d a b) s = lcmOutcome s.field.arith s d (s.projm a) (s.projm b) := if_pos hfv

end

/-- Settles O42: `gcd_outcome` over the built field, where the gcd is monic unless both operands are 0. -/
theorem pgcdmIsTheMonicGcd : Obligations.PgcdmIsTheMonicGcd := by
  intro s d a b h hfv
  obtain ⟨K, _, ⟨ρ⟩⟩ := exists_fieldRep h.cfgValid (h.fieldOn hfv)
  obtain ⟨t, hx, hw, ht, hcoefs, hda, hdb, hgreatest⟩ :=
    gcd_outcome ρ (deg_le_mMax h hfv) (h.polysFit a) (h.polysFit b) d
  obtain ⟨f, hf, -⟩ := ρ.exists_proj_eq_poly (h.polysFit a)
  obtain ⟨g, hg, -⟩ := ρ.exists_proj_eq_poly (h.polysFit b)
  have hG : t.readP d = ρ.poly (monicGcd f g) := by rw [ht, hf, hg, ρ.gcd_poly]
  refine ⟨t, (exec_pgcdm hfv d a b).trans hx, hw, ht, hcoefs, hda, hdb, hgreatest, ?_⟩
  simp only [State.projm, hf, hg, hG, ne_eq, ρ.poly_eq_nil_iff]
  exact ⟨monicGcd_eq_zero_iff.mpr, fun hne => ⟨monicGcd_ne_zero hne, ρ.lead_poly_of_monic (monic_monicGcd hne)⟩⟩

/-- Settles O43: `lcm_outcome` over the built field; the constant is the leading coefficient taken off the quotient. -/
theorem plcmmTimesGcdIsTheProduct : Obligations.PlcmmTimesGcdIsTheProduct := by
  intro s d a b h hfv
  obtain ⟨K, _, ⟨ρ⟩⟩ := exists_fieldRep h.cfgValid (h.fieldOn hfv)
  obtain ⟨hzero, hfits, hover⟩ := lcm_outcome ρ (deg_le_mMax h hfv) (h.polysFit a) (h.polysFit b) d
  rw [exec_plcmm hfv]
  refine ⟨hzero, fun ha hb hlt => ?_, hover⟩
  obtain ⟨t, hx, hw, ht⟩ := hfits ha hb hlt
  obtain ⟨f, hf, -⟩ := ρ.exists_proj_eq_poly (h.polysFit a)
  obtain ⟨g, hg, -⟩ := ρ.exists_proj_eq_poly (h.polysFit b)
  simp only [State.projm, hf, hg] at ha hb ⊢
  rw [hf, hg, ρ.lcm_poly ha hb] at ht
  obtain ⟨x, hx0, hmonic, hprod⟩ := exists_monicGcd_mul_monicLcm (mt ρ.poly_eq_nil_iff.mpr ha)
    (mt ρ.poly_eq_nil_iff.mpr hb)
  refine ⟨t, hf ▸ hg ▸ hx, hw, ?_⟩
  rw [ht, ρ.gcd_poly]
  refine ⟨ρ.coefs_poly _, mt ρ.poly_eq_nil_iff.mp hmonic.ne_zero, ρ.lead_poly_of_monic hmonic,
    ρ.bits x, mt ρ.bits_eq_zero_iff.mp hx0, ρ.bits_lt x, fun j => ?_⟩
  calc s.field.mul (ρ.bits x) (conv s.field.mul (ρ.poly (monicGcd f g)) (ρ.poly (monicLcm f g)) j)
    _ = s.field.mul (ρ.bits x) (ρ.bits ((monicGcd f g * monicLcm f g).coeff j)) := by rw [← ρ.conv_poly]; rfl
    _ = ρ.bits ((f * g).coeff j) := by rw [← hprod, coeff_C_mul, ρ.bits_mul]; rfl
    _ = conv s.field.mul (ρ.poly f) (ρ.poly g) j := (ρ.conv_poly f g j).symm

/-! ### Coefficients of a subfield -/

section
variable {K L : Type} [Field K] [Field L]

theorem map_monicPart (φ : K →+* L) (f : K[X]) : (monicPart f).map φ = monicPart (f.map φ) := by
  rw [monicPart, monicPart, Polynomial.map_mul, map_C, map_inv₀, leadingCoeff_map]

theorem map_monicGcd (φ : K →+* L) (f g : K[X]) : (monicGcd f g).map φ = monicGcd (f.map φ) (g.map φ) := by
  classical
  rw [monicGcd, monicGcd, map_monicPart, gcd_map]

theorem map_monicLcm (φ : K →+* L) (f g : K[X]) : (monicLcm f g).map φ = monicLcm (f.map φ) (g.map φ) := by
  rw [monicLcm, monicLcm, map_monicPart, Polynomial.map_div, Polynomial.map_mul, map_monicGcd]

namespace Arith.FieldRep

/-- The two elements of GF(2) are 0 and 1 in every coefficient field, and have the same bits there. -/
theorem exists_gf2_embedding {B : Arith} {n : Nat} (σ : B.FieldRep n L) :
    ∃ φ : ZMod 2 →+* L, ∀ x, σ.bits (φ x) = gf2Rep.bits x := by
  have := σ.charP_two
  refine ⟨ZMod.castHom dvd_rfl L, fun x => ?_⟩
  by_cases hx : x = 0
  · rw [hx, map_zero, σ.bits_zero, gf2Rep.bits_zero]
  · rw [zmod_two_eq_one hx, map_one, σ.bits_one, gf2Rep.bits_one]

variable {A B : Arith} {m n : Nat} {ρ : A.FieldRep m K} {σ : B.FieldRep n L} {φ : K →+* L}
  (hφ : ∀ x, σ.bits (φ x) = ρ.bits x)
include hφ

/-- A polynomial over the subfield has the same list over the larger field. -/
theorem poly_map (f : K[X]) : σ.poly (f.map φ) = ρ.poly f := by
  rw [← ρ.trim_poly]
  refine (σ.trim_eq_poly fun j => ?_).symm
  rw [ρ.coef_poly, coeff_map, hφ]

theorem mul_of_embedding (f g : K[X]) : Poly.mul B (ρ.poly f) (ρ.poly g) = Poly.mul A (ρ.poly f) (ρ.poly g) := by
  rw [ρ.mul_poly, ← poly_map hφ, ← poly_map hφ g, ← poly_map hφ (f * g), σ.mul_poly, Polynomial.map_mul]

theorem divMod_of_embedding (f : K[X]) {g : K[X]} (hg : g ≠ 0) :
    Poly.divMod B (ρ.poly f) (ρ.poly g) = Poly.divMod A (ρ.poly f) (ρ.poly g) := by
  have hg' : g.map φ ≠ 0 := (Polynomial.map_ne_zero_iff φ.injective).mpr hg
  rw [ρ.divMod_poly f hg, ← poly_map hφ f, ← poly_map hφ g, σ.divMod_poly _ hg', ← Polynomial.map_div, ← map_mod,
    poly_map hφ, poly_map hφ]

theorem gcd_of_embedding (f g : K[X]) : Poly.gcd B (ρ.poly f) (ρ.poly g) = Poly.gcd A (ρ.poly f) (ρ.poly g) := by
  rw [ρ.gcd_poly, ← poly_map hφ f, ← poly_map hφ g, σ.gcd_poly, ← map_monicGcd, poly_map hφ]

theorem lcm_of_embedding (f g : K[X]) : Poly.lcm B (ρ.poly f) (ρ.poly g) = Poly.lcm A (ρ.poly f) (ρ.poly g) := by
  by_cases hzero : ρ.poly f = [] ∨ ρ.poly g = []
  · rw [Poly.lcm, Poly.lcm, if_pos hzero, if_pos hzero]
  · obtain ⟨hf, hg⟩ := not_or.mp hzero
    rw [ρ.lcm_poly hf hg]
    rw [← poly_map hφ] at hf hg
    rw [← poly_map hφ f, ← poly_map hφ g, σ.lcm_poly hf hg, ← map_monicLcm, poly_map hφ]

theorem mulOutcome_of_embedding (s : State) (d : PReg) (f g : K[X]) :
    mulOutcome B s d (ρ.poly f) (ρ.poly g) = mulOutcome A s d (ρ.poly f) (ρ.poly g) := by
  rw [mulOutcome, mulOutcome, mul_of_embedding hφ]

theorem divOutcome_of_embedding (s : State) (d c : PReg) (f g : K[X]) :
    divOutcome B s d c (ρ.poly f) (ρ.poly g) = divOutcome A s d c (ρ.poly f) (ρ.poly g) := by
  by_cases hg : g = 0
  · have hnil : ρ.poly g = [] := ρ.poly_eq_nil_iff.mpr hg
    rw [divOutcome, divOutcome, if_pos hnil, if_pos hnil]
  · rw [divOutcome, divOutcome, divMod_of_embedding hφ f hg]

theorem lcmOutcome_of_embedding (s : State) (d : PReg) (f g : K[X]) :
    lcmOutcome B s d (ρ.poly f) (ρ.poly g) = lcmOutcome A s d (ρ.poly f) (ρ.poly g) := by
  rw [lcmOutcome, lcmOutcome, lcm_of_embedding hφ]

end Arith.FieldRep

end

/-- Settles O44: the operands are lists of polynomials over GF(2), and the embedding of GF(2) in the built field keeps
product, division, gcd and lcm of them; a sum needs no multiplication. -/
theorem fieldPolynomialsRestrictToGf2 : Obligations.FieldPolynomialsRestrictToGf2 := by
  intro s d c a b h hfv ha hb
  obtain ⟨K, _, ⟨σ⟩⟩ := exists_fieldRep h.cfgValid (h.fieldOn hfv)
  obtain ⟨φ, hφ⟩ := σ.exists_gf2_embedding
  obtain ⟨f, hf : s.proj2 a = _, -⟩ := gf2Rep.exists_proj_eq_poly (h.polysFit a)
  obtain ⟨g, hg : s.proj2 b = _, -⟩ := gf2Rep.exists_proj_eq_poly (h.polysFit b)
  refine ⟨?_, ?_, ?_, ?_, ?_⟩
  · rw [exec_paddm hfv, exec_padd2, ha, hb]
  · rw [exec_pmulm hfv, exec_pmul2, ha, hb, hf, hg, Arith.FieldRep.mulOutcome_of_embedding hφ]
  · by_cases hdc : d = c
    · -- one destination register for two results is illegal in both commands (log 13)
      exact (if_pos hdc).trans (if_pos hdc).symm
    · rw [exec_pdivm hfv hdc, exec_pdiv2 hdc, ha, hb, hf, hg, Arith.FieldRep.divOutcome_of_embedding hφ]
  · rw [exec_pgcdm hfv, exec_pgcd2, ha, hb, hf, hg, Arith.FieldRep.gcd_of_embedding hφ]
  · rw [exec_plcmm hfv, exec_plcm2, ha, hb, hf, hg, Arith.FieldRep.lcmOutcome_of_embedding hφ]

end Sys2Proof.Machine
end

section
/-! Orbits of a periodic point, and the orbits that the model's two loops walk: the conjugates of a field element under
squaring (43_minpoly_generator.md R182) and the cyclotomic coset of an exponent under doubling (R184). -/

namespace Sys2Proof.Machine

open Function

/-! ### The orbit of a periodic point as a list -/

section
variable {S T : Type} {f : S → S} {x y : S}

/-- `x`, `f x`, … up to the first return to `x`; Mathlib's `periodicOrbit` is the cycle of this list. -/
noncomputable def orbitList (f : S → S) (x : S) : List S := (List.range (minimalPeriod f x)).map fun k => f^[k] x

@[simp] theorem length_orbitList (f : S → S) (x : S) : (orbitList f x).length = minimalPeriod f x := by
  simp [orbitList]

theorem nodup_orbitList (f : S → S) (x : S) : (orbitList f x).Nodup := Cycle.nodup_coe_iff.mp nodup_periodicOrbit

theorem mem_orbitList_iff (hx : x ∈ periodicPts f) : y ∈ orbitList f x ↔ ∃ n, f^[n] x = y :=
  mem_periodicOrbit_iff hx

theorem orbitList_of_fixed (hx : f x = x) : orbitList f x = [x] := by
  rw [orbitList, minimalPeriod_eq_one_iff_isFixedPt.mpr hx]
  rfl

/-- `f` permutes the orbit. -/
theorem map_orbitList_perm (hx : x ∈ periodicPts f) : ((orbitList f x).map f).Perm (orbitList f x) := by
  have hmap : (orbitList f x).map f = orbitList f (f x) := by
    simp only [orbitList, List.map_map, minimalPeriod_apply hx]
    exact List.map_congr_left fun k _ => (iterate_succ_apply' f k x).symm
  rw [hmap]
  exact (Cycle.coe_eq_coe.mp (periodicOrbit_apply_eq hx)).perm

/-- A map that carries `f` to `g` and is injective where the orbit lies carries the orbit to an orbit. -/
theorem map_orbitList {g : T → T} {φ : S → T} {s : Set S} (hs : Set.MapsTo f s s) (hφ : Set.InjOn φ s)
    (hfg : ∀ y ∈ s, φ (f y) = g (φ y)) (hx : x ∈ s) : (orbitList f x).map φ = orbitList g (φ x) := by
  have hiter (k : Nat) : φ (f^[k] x) = g^[k] (φ x) := by
    induction k with
    | zero => rfl
    | succ k ih => rw [iterate_succ_apply', hfg _ (hs.iterate k hx), ih, iterate_succ_apply']
  have hperiod : minimalPeriod f x = minimalPeriod g (φ x) := minimalPeriod_eq_minimalPeriod_iff.mpr fun n => by
    rw [IsPeriodicPt, IsFixedPt, IsPeriodicPt, IsFixedPt, ← hiter]
    exact (hφ.eq_iff (hs.iterate n hx) hx).symm
  simp only [orbitList, List.map_map, ← hperiod, comp_def, hiter]

/-- A set that `f` maps into itself and that meets the orbit holds all of it. -/
theorem mem_of_iterate_mem {p : S → Prop} (hp : ∀ y, p y → p (f y)) (hx : x ∈ periodicPts f) {k : Nat}
    (hk : p (f^[k] x)) : p x := by
  obtain ⟨m, hm, hret⟩ := hx
  have hall (j : Nat) : p (f^[j] (f^[k] x)) := by
    induction j with
    | zero => exact hk
    | succ j ih => exact iterate_succ_apply' f j _ ▸ hp _ ih
  have hback : f^[m * k - k] (f^[k] x) = x := by
    rw [← iterate_add_apply, Nat.sub_add_cancel (Nat.le_mul_of_pos_left k hm)]
    exact hret.mul_const k
  exact hback ▸ hall _

end

/-! ### The conjugates of an element -/

/-- Squaring in the field. -/
abbrev FieldState.sq (F : FieldState) (x : Elem) : Elem := F.mul x x

theorem orbitFrom_self (F : FieldState) (β : Elem) (n : Nat) : orbitFrom F β n β = [] := by
  cases n with
  | zero => rfl
  | succ n => exact if_pos rfl

theorem orbitFrom_succ_of_ne {F : FieldState} {β c : Elem} (h : c ≠ β) (n : Nat) :
    orbitFrom F β (n + 1) c = c :: orbitFrom F β n (F.sq c) := if_neg h

/-- From the k-th conjugate on the loop lists the rest of the orbit. -/
theorem orbitFrom_iterate (F : FieldState) (β : Elem) {n k : Nat} (h0 : 0 < k) (hk : k ≤ minimalPeriod F.sq β)
    (hn : minimalPeriod F.sq β ≤ k + n) : orbitFrom F β n (F.sq^[k] β) =
      (List.range' k (minimalPeriod F.sq β - k)).map fun j => F.sq^[j] β := by
  induction n generalizing k with
  | zero =>
    have hend : minimalPeriod F.sq β - k = 0 := Nat.sub_eq_zero_of_le hn
    rw [hend]
    rfl
  | succ n ih =>
    rcases hk.eq_or_lt with rfl | hlt
    · rw [iterate_minimalPeriod, orbitFrom_self, Nat.sub_self]
      rfl
    · have hne : F.sq^[k] β ≠ β := not_isPeriodicPt_of_pos_of_lt_minimalPeriod h0.ne' hlt
      have hrest : minimalPeriod F.sq β - k = minimalPeriod F.sq β - (k + 1) + 1 := by omega
      rw [orbitFrom_succ_of_ne hne, ← iterate_succ_apply' F.sq, ih k.succ_pos hlt (by omega), hrest,
        List.range'_succ, List.map_cons]

/-- With m turns the loop lists the whole orbit of an element that comes back within m squarings. -/
theorem frobeniusOrbit_eq {F : FieldState} {β : Elem} (hm : 0 < F.deg) (hβ : IsPeriodicPt F.sq F.deg β) :
    frobeniusOrbit F β = orbitList F.sq β := by
  have hpos := hβ.minimalPeriod_pos hm
  have hle := hβ.minimalPeriod_le hm
  have hrest := orbitFrom_iterate F β Nat.one_pos hpos (hle.trans (Nat.le_add_left F.deg 1))
  obtain ⟨p, hp⟩ := Nat.exists_eq_succ_of_ne_zero hpos.ne'
  rw [frobeniusOrbit, orbitList, List.range_eq_range', hp, List.range'_succ, List.map_cons]
  rw [hp] at hrest
  exact congrArg (β :: ·) hrest

section
variable {c : Params} {F : FieldState} (hc : c.Valid) (hF : fieldBuilt c F)
include hc hF

theorem iterate_sq_alphaPow (l k : Nat) : F.sq^[k] (F.alphaPow l) = F.alphaPow (2 ^ k * l) := by
  induction k with
  | zero => exact congrArg F.alphaPow (Nat.one_mul l).symm
  | succ k ih =>
    rw [iterate_succ_apply', ih, FieldState.sq, mul_alphaPow hc hF, Nat.pow_succ, Nat.mul_right_comm, Nat.mul_two]

omit hc in
theorem two_pow_deg : 2 ^ F.deg = F.q1 + 1 := by
  have := two_pow_sub_one_pos hF.1
  rw [FieldState.q1]
  omega

omit hc in
theorem deg_le_q1 : F.deg ≤ F.q1 :=
  Nat.le_of_lt_succ <| (Nat.lt_two_pow_self (n := F.deg)).trans_eq (two_pow_deg hF)

/-- m squarings give the element back (40_field.md R127). -/
theorem isPeriodicPt_sq {β : Elem} (hβ : β.toNat < 2 ^ F.deg) : IsPeriodicPt F.sq F.deg β := by
  by_cases h0 : β = 0#16
  · exact IsFixedPt.isPeriodicPt (h0 ▸ F.zero_mul 0#16) _
  · rw [← (alphaPow_logAt hc hF h0 hβ).2]
    refine (iterate_sq_alphaPow hc hF _ _).trans (alphaPow_congr ?_)
    rw [two_pow_deg hF, Nat.add_mul, Nat.one_mul, Nat.mul_add_mod]

end

/-! ### Cyclotomic cosets -/

/-- Doubling of an exponent modulo q1. -/
abbrev doubleMod (q1 e : Nat) : Nat := 2 * e % q1

theorem iterate_doubleMod {q1 i : Nat} (hi : i < q1) (k : Nat) : (doubleMod q1)^[k] i = 2 ^ k * i % q1 := by
  induction k with
  | zero => rw [iterate_zero_apply, Nat.pow_zero, Nat.one_mul, Nat.mod_eq_of_lt hi]
  | succ k ih => rw [iterate_succ_apply', ih, doubleMod, Nat.mul_mod_mod, Nat.pow_succ', Nat.mul_assoc]

theorem isPeriodicPt_doubleMod {c : Params} {F : FieldState} (hF : fieldBuilt c F) {i : Nat} (hi : i < F.q1) :
    IsPeriodicPt (doubleMod F.q1) F.deg i := by
  refine (iterate_doubleMod hi _).trans ?_
  rw [two_pow_deg hF, Nat.add_mul, Nat.one_mul, Nat.mul_add_mod, Nat.mod_eq_of_lt hi]

theorem coverCoset_of_mem {q1 e : Nat} {covered : List Nat} (h : e ∈ covered) (n : Nat) :
    coverCoset q1 n e covered = covered := by
  cases n with
  | zero => rfl
  | succ n => exact if_pos h

theorem coverCoset_succ_of_not_mem {q1 e : Nat} {covered : List Nat} (h : e ∉ covered) (n : Nat) :
    coverCoset q1 (n + 1) e covered = coverCoset q1 n (doubleMod q1 e) (e :: covered) := if_neg h

/-- From the k-th member of a coset that is not covered yet on, the loop adds the rest of the coset. -/
theorem coverCoset_iterate {q1 i : Nat} {covered : List Nat} (hi : i ∈ periodicPts (doubleMod q1))
    (hfresh : ∀ k, (doubleMod q1)^[k] i ∉ covered) {n k : Nat} (hk : k ≤ minimalPeriod (doubleMod q1) i)
    (hn : minimalPeriod (doubleMod q1) i ≤ k + n) :
    coverCoset q1 n ((doubleMod q1)^[k] i) (((List.range k).map fun j => (doubleMod q1)^[j] i).reverse ++ covered) =
      (orbitList (doubleMod q1) i).reverse ++ covered := by
  have hpos := minimalPeriod_pos_of_mem_periodicPts hi
  induction n generalizing k with
  | zero =>
    obtain rfl : k = minimalPeriod (doubleMod q1) i := Nat.le_antisymm hk hn
    rfl
  | succ n ih =>
    rcases hk.eq_or_lt with rfl | hlt
    · refine coverCoset_of_mem ?_ _
      rw [iterate_minimalPeriod, List.mem_append, List.mem_reverse, List.mem_map]
      exact .inl ⟨0, List.mem_range.mpr hpos, rfl⟩
    · have hnew : (doubleMod q1)^[k] i ∉
          ((List.range k).map fun j => (doubleMod q1)^[j] i).reverse ++ covered := by
        rw [List.mem_append, List.mem_reverse, List.mem_map]
        rintro (⟨j, hj, heq⟩ | hmem)
        · have hjk := List.mem_range.mp hj
          exact hjk.ne (iterate_injOn_Iio_minimalPeriod (hjk.trans hlt) hlt heq)
        · exact hfresh k hmem
      rw [coverCoset_succ_of_not_mem hnew, ← iterate_succ_apply' (doubleMod q1), ← ih hlt (by omega)]
      simp [List.range_succ]

end Sys2Proof.Machine
end

section
/-! The minimal polynomial of a field element: the product over its conjugates is invariant under squaring, so its
coefficients are those of a polynomial over GF(2) (43_minpoly_generator.md R181). -/

namespace Sys2Proof.Machine

open Sys2Proof.Spec Polynomial Function

/-! ### The monic polynomial with given roots -/

section
variable {K : Type} [Field K]

/-- The product of x − y over the `y` of `s`. -/
noncomputable def rootsPoly (s : Multiset K) : K[X] := (s.map fun y => X - C y).prod

theorem monic_rootsPoly (s : Multiset K) : (rootsPoly s).Monic := monic_multisetProd_X_sub_C s

theorem natDegree_rootsPoly (s : Multiset K) : (rootsPoly s).natDegree = s.card :=
  natDegree_multiset_prod_X_sub_C_eq_card s

theorem rootsPoly_zero : rootsPoly (0 : Multiset K) = 1 := rfl

theorem rootsPoly_cons (y : K) (s : Multiset K) : rootsPoly (y ::ₘ s) = (X - C y) * rootsPoly s := by
  rw [rootsPoly, Multiset.map_cons, Multiset.prod_cons, rootsPoly]

theorem rootsPoly_add (s t : Multiset K) : rootsPoly (s + t) = rootsPoly s * rootsPoly t := by
  rw [rootsPoly, Multiset.map_add, Multiset.prod_add, rootsPoly, rootsPoly]

theorem eval_rootsPoly_of_mem {y : K} {s : Multiset K} (h : y ∈ s) : (rootsPoly s).eval y = 0 := by
  rw [rootsPoly, eval_multiset_prod, Multiset.map_map]
  exact Multiset.prod_eq_zero (Multiset.mem_map.mpr ⟨y, h, by simp⟩)

theorem map_rootsPoly {L : Type} [Field L] (φ : K →+* L) (s : Multiset K) :
    (rootsPoly s).map φ = rootsPoly (s.map φ) := by
  simp [rootsPoly, Polynomial.map_multiset_prod, Multiset.map_map]

/-- Distinct roots of `f` divide it out together. -/
theorem rootsPoly_dvd {f : K[X]} (hf : f ≠ 0) {s : Multiset K} (hs : s.Nodup) (h : ∀ y ∈ s, f.eval y = 0) :
    rootsPoly s ∣ f :=
  (Multiset.prod_X_sub_C_dvd_iff_le_roots hf s).mpr <|
    (Multiset.le_iff_subset hs).mpr fun y hy => (mem_roots hf).mpr (h y hy)

/-! ### Conjugates in characteristic 2 -/

variable [CharP K 2]

/-- Roots that squaring permutes are the roots of a polynomial over GF(2): its coefficients are their own squares. -/
theorem exists_map_eq_rootsPoly (φ : ZMod 2 →+* K) {s : Multiset K} (hs : s.map (· ^ 2) = s) :
    ∃ f : (ZMod 2)[X], f.map φ = rootsPoly s := by
  have hinv : (rootsPoly s).map (frobenius K 2) = rootsPoly s := (map_rootsPoly _ s).trans (congrArg rootsPoly hs)
  refine (mem_lifts _).mp ((lifts_iff_coeff_lifts _).mpr fun j => ?_)
  have hidem : IsIdempotentElem ((rootsPoly s).coeff j) := by
    rw [IsIdempotentElem, ← pow_two]
    conv_rhs => rw [← hinv, coeff_map, frobenius_def]
  obtain h0 | h1 := IsIdempotentElem.iff_eq_zero_or_one.mp hidem
  · exact ⟨0, by rw [map_zero, h0]⟩
  · exact ⟨1, by rw [map_one, h1]⟩

end

namespace Arith.FieldRep

variable {A : Arith} {n : Nat} {K : Type} [Field K] (ρ : A.FieldRep n K)

theorem poly_one : ρ.poly 1 = [1#16] := by
  refine (ρ.trim_eq_poly (p := [1#16]) fun j => ?_).symm
  cases j with
  | zero => rw [coeff_one_zero, ρ.bits_one, coef_cons_zero]
  | succ j => rw [coeff_one, if_neg j.succ_ne_zero, ρ.bits_zero, coef_cons_succ, coef_nil]

/-- The factor of a conjugate; x − y is x + y (43_minpoly_generator.md R181). -/
theorem poly_X_sub_C (y : K) : ρ.poly (X - C y) = [ρ.bits y, 1#16] := by
  have := ρ.charP_two
  refine (ρ.trim_eq_poly (p := [ρ.bits y, 1#16]) fun j => ?_).symm
  rw [CharTwo.sub_eq_add]
  match j with
  | 0 => simp
  | 1 => simp [ρ.bits_one]
  | j + 2 => simp [coeff_X]

theorem foldl_linear_poly (l : List K) (f : K[X]) :
    (l.map ρ.bits).foldl (fun M c => Poly.mul A M [c, 1]) (ρ.poly f) = ρ.poly (f * rootsPoly (l : Multiset K)) := by
  induction l generalizing f with
  | nil => rw [Multiset.coe_nil, rootsPoly_zero, mul_one]; rfl
  | cons y l ih =>
    have hstep : Poly.mul A (ρ.poly f) [ρ.bits y, 1] = ρ.poly (f * (X - C y)) := by
      rw [← ρ.mul_poly, ρ.poly_X_sub_C]
      rfl
    rw [List.map_cons, List.foldl_cons, hstep, ih, ← Multiset.cons_coe, rootsPoly_cons, mul_assoc]

end Arith.FieldRep

/-! ### The minimal polynomial -/

/-- The conjugates of an element: `b`, `b^2`, `b^4`, … (43_minpoly_generator.md R182). -/
noncomputable def conjugates {K : Type} [Field K] (b : K) : List K := orbitList (· ^ 2) b

section
variable {c : Params} {F : FieldState} (hc : c.Valid) (hF : fieldBuilt c F) {K : Type} [Field K]
  (ρ : F.arith.FieldRep F.deg K)

theorem map_bits_conjugates (b : K) : (conjugates b).map ρ.bits = orbitList F.sq (ρ.bits b) := by
  refine map_orbitList (Set.mapsTo_univ _ _) (ρ.bits_injective.injOn) (fun y _ => ?_) (Set.mem_univ b)
  rw [pow_two]
  exact ρ.bits_mul y y

theorem length_conjugates (b : K) : (conjugates b).length = minimalPeriod F.sq (ρ.bits b) := by
  rw [← length_orbitList F.sq, ← map_bits_conjugates, List.length_map]

include hc hF ρ

theorem mem_periodicPts_sq (b : K) : b ∈ periodicPts fun x : K => x ^ 2 := by
  have hpos := (isPeriodicPt_sq hc hF (ρ.bits_lt b)).minimalPeriod_pos hF.1
  rw [← length_conjugates, conjugates, length_orbitList] at hpos
  exact minimalPeriod_pos_iff_mem_periodicPts.mp hpos

theorem length_conjugates_le (b : K) : (conjugates b).length ≤ F.deg :=
  length_conjugates ρ b ▸ (isPeriodicPt_sq hc hF (ρ.bits_lt b)).minimalPeriod_le hF.1

/-- MINPOLY's product is the polynomial whose roots are the conjugates. -/
theorem minimalPoly_bits (b : K) : minimalPoly F (ρ.bits b) = ρ.poly (rootsPoly (conjugates b : Multiset K)) := by
  have horbit := frobeniusOrbit_eq hF.1 (isPeriodicPt_sq hc hF (ρ.bits_lt b))
  have hfold := ρ.foldl_linear_poly (conjugates b) 1
  rw [map_bits_conjugates, ρ.poly_one, one_mul] at hfold
  rw [minimalPoly, horbit, ← hfold]
  rfl

/-- "every coefficient of M is 0 or 1": M is a polynomial over GF(2). -/
theorem exists_minimalPoly_eq_gf2 {φ : ZMod 2 →+* K} (hφ : ∀ x, ρ.bits (φ x) = gf2Rep.bits x) (b : K) :
    ∃ f, minimalPoly F (ρ.bits b) = gf2Rep.poly f ∧ f.map φ = rootsPoly (conjugates b : Multiset K) := by
  have := ρ.charP_two
  obtain ⟨f, hf⟩ := exists_map_eq_rootsPoly φ (s := (conjugates b : Multiset K)) <|
    Multiset.coe_eq_coe.mpr (map_orbitList_perm (mem_periodicPts_sq hc hF ρ b))
  refine ⟨f, ?_, hf⟩
  rw [minimalPoly_bits hc hF, ← hf, Arith.FieldRep.poly_map hφ]

end

section
variable {c : Params} {F : FieldState} (hc : c.Valid) (hF : fieldBuilt c F)
include hc hF

theorem exists_rep_of_lt {β : Elem} (hβ : β.toNat < 2 ^ F.deg) :
    ∃ (K : Type) (_ : Field K) (ρ : F.arith.FieldRep F.deg K) (b : K), ρ.bits b = β := by
  obtain ⟨K, _, ⟨ρ⟩⟩ := exists_fieldRep hc hF
  obtain ⟨b, hb⟩ := ρ.exists_bits β hβ
  exact ⟨K, _, ρ, b, hb⟩

variable {β : Elem} (hβ : β.toNat < 2 ^ F.deg)
include hβ

theorem deg_minimalPoly : Poly.deg (minimalPoly F β) = minimalPeriod F.sq β := by
  obtain ⟨K, _, ρ, b, rfl⟩ := exists_rep_of_lt hc hF hβ
  rw [minimalPoly_bits hc hF, ρ.deg_poly (monic_rootsPoly _).ne_zero, natDegree_rootsPoly, Multiset.coe_card,
    length_conjugates]

theorem lead_minimalPoly : Poly.lead (minimalPoly F β) = 1 := by
  obtain ⟨K, _, ρ, b, rfl⟩ := exists_rep_of_lt hc hF hβ
  rw [minimalPoly_bits hc hF, ρ.lead_poly_of_monic (monic_rootsPoly _)]

theorem eval_minimalPoly : Poly.eval F.arith (minimalPoly F β) β = 0 := by
  obtain ⟨K, _, ρ, b, rfl⟩ := exists_rep_of_lt hc hF hβ
  have hmem : b ∈ conjugates b := (mem_orbitList_iff (mem_periodicPts_sq hc hF ρ b)).mpr ⟨0, rfl⟩
  rw [minimalPoly_bits hc hF, ρ.eval_poly, eval_rootsPoly_of_mem hmem, ρ.bits_zero]
  rfl

theorem toNat_coef_minimalPoly_le (j : Nat) : (Poly.coef (minimalPoly F β) j).toNat ≤ 1 := by
  obtain ⟨K, _, ρ, b, rfl⟩ := exists_rep_of_lt hc hF hβ
  obtain ⟨φ, hφ⟩ := ρ.exists_gf2_embedding
  obtain ⟨f, hf, -⟩ := exists_minimalPoly_eq_gf2 hc hF ρ hφ b
  rw [hf]
  exact Nat.le_of_lt_succ (coefs_iff.mp (gf2Rep.coefs_poly f) j)

/-- 0 and 1 are their only conjugates. -/
theorem minimalPoly_of_fixed (hfix : F.sq β = β) : minimalPoly F β = [β, 1] := by
  obtain ⟨K, _, ρ, b, rfl⟩ := exists_rep_of_lt hc hF hβ
  have hb : b ^ 2 = b := ρ.bits_injective <| by
    rw [pow_two, ρ.bits_mul]
    exact hfix
  have hroots : rootsPoly (conjugates b : Multiset K) = X - C b := by
    rw [conjugates, orbitList_of_fixed (f := (· ^ 2)) hb]
    exact Multiset.prod_singleton _
  rw [minimalPoly_bits hc hF, hroots, ρ.poly_X_sub_C]
  rfl

/-- The degree of a minimal polynomial is at most m, so a register holds it. -/
theorem storePoly_minimalPoly : storePoly c (minimalPoly F β) = minimalPoly F β := by
  obtain ⟨K, _, ρ, b, rfl⟩ := exists_rep_of_lt hc hF hβ
  have hlen := (length_conjugates_le hc hF ρ b).trans (deg_le_q1 hF)
  have hq := (q1_lt hc hF).1
  rw [minimalPoly_bits hc hF]
  refine storePoly_of_fits (ρ.trim_poly _) ?_ fun x hx =>
    (ρ.coefs_poly _ x hx).trans_le (Nat.pow_le_pow_right Nat.two_pos hF.2.1)
  rw [ρ.length_poly_eq (monic_rootsPoly _).ne_zero, natDegree_rootsPoly, Multiset.coe_card]
  omega

end

/-! ### MINPOLY -/

theorem exec_minpoly {s : State} (h : s.Inv) (hfv : s.field.fv = true) (d : PReg) (a : EReg) :
    ∃ t, exec (.minpoly d a) s = .next t ∧ WroteP s t d ∧ t.readP d = minimalPoly s.field (s.feReg a) := by
  refine ⟨_, if_pos hfv, wroteP_complete s d _, ?_⟩
  rw [readP_writeP_complete, storePoly_minimalPoly h.cfgValid (h.fieldOn hfv) (feReg_lt s a)]

/-- Settles O45: MINPOLY stores `minimalPoly`, the polynomial whose roots are the conjugates of the operand. -/
theorem minpolyIsTheMinimalPolynomial : Obligations.MinpolyIsTheMinimalPolynomial := by
  refine ⟨fun s d a h hfv => ?_, fun s t d a h hfv hx => ?_⟩
  · intro β sq
    have hc := h.cfgValid
    have hF := h.fieldOn hfv
    have hβ : β.toNat < 2 ^ s.field.deg := feReg_lt s a
    have hperiod : IsPeriodicPt sq s.field.deg β := isPeriodicPt_sq hc hF hβ
    obtain ⟨t, hx, hw, ht⟩ := exec_minpoly h hfv d a
    refine ⟨t, hx, hw, ht, ht ▸ ⟨minimalPeriod sq β, hperiod.minimalPeriod_pos hF.1,
      hperiod.minimalPeriod_le hF.1, iterate_minimalPeriod, fun i hi hlt => ?_, ?_⟩, ?_, fun h0 => ?_, fun h1 => ?_⟩
    · exact not_isPeriodicPt_of_pos_of_lt_minimalPeriod hi.ne' hlt
    · exact deg_minimalPoly hc hF hβ
    · exact ht ▸ lead_minimalPoly hc hF hβ
    · rw [ht, minimalPoly_of_fixed hc hF hβ (h0 ▸ s.field.zero_mul 0), h0]
    · have h1' : s.field.mul 1 1 = 1 := (field_keepsOne hF).one_mul_one
      rw [ht, minimalPoly_of_fixed hc hF hβ (h1 ▸ h1'), h1]
  · have hc := h.cfgValid
    have hF := h.fieldOn hfv
    obtain ⟨t', hx', -, ht⟩ := exec_minpoly h hfv d a
    cases hx'.symm.trans hx
    rw [ht]
    exact ⟨eval_minimalPoly hc hF (feReg_lt s a), toNat_coef_minimalPoly_le hc hF (feReg_lt s a)⟩

end Sys2Proof.Machine
end

section
/-! The generator polynomial takes each conjugacy class once: the covered exponents are the cosets of the exponents seen
(43_minpoly_generator.md R184, R185). -/

namespace Sys2Proof.Machine

open Sys2Proof.Spec Function

/-! ### The cosets of the exponents 1 … k -/

/-- `x` lies in the cyclotomic coset of one of the exponents 1 … k. -/
def InCosetUpTo (q1 k x : Nat) : Prop := ∃ j, 1 ≤ j ∧ j ≤ k ∧ ∃ n, (doubleMod q1)^[n] j = x

theorem not_inCosetUpTo_zero (q1 x : Nat) : ¬ InCosetUpTo q1 0 x := fun ⟨_, h1, h0, _⟩ =>
  absurd (h1.trans h0) (by decide)

theorem inCosetUpTo_succ_iff {q1 k x : Nat} :
    InCosetUpTo q1 (k + 1) x ↔ (∃ n, (doubleMod q1)^[n] (k + 1) = x) ∨ InCosetUpTo q1 k x := by
  refine ⟨fun ⟨j, h1, hj, hx⟩ => ?_, ?_⟩
  · rcases hj.eq_or_lt with rfl | hlt
    · exact .inl hx
    · exact .inr ⟨j, h1, Nat.le_of_lt_succ hlt, hx⟩
  · rintro (hx | ⟨j, h1, hj, hx⟩)
    · exact ⟨k + 1, k.succ_pos, le_rfl, hx⟩
    · exact ⟨j, h1, hj.trans k.le_succ, hx⟩

theorem inCosetUpTo_iterate {q1 k x : Nat} (h : InCosetUpTo q1 k x) (n : Nat) :
    InCosetUpTo q1 k ((doubleMod q1)^[n] x) := by
  obtain ⟨j, h1, hj, l, rfl⟩ := h
  exact ⟨j, h1, hj, n + l, iterate_add_apply ..⟩

/-- A new exponent already covered adds no coset. -/
theorem inCosetUpTo_succ_iff_of_covered {q1 k x : Nat} (h : InCosetUpTo q1 k (k + 1)) :
    InCosetUpTo q1 (k + 1) x ↔ InCosetUpTo q1 k x :=
  inCosetUpTo_succ_iff.trans <| or_iff_right_of_imp fun ⟨n, hn⟩ => hn ▸ inCosetUpTo_iterate h n

theorem lt_of_inCosetUpTo {q1 k x : Nat} (hk : k < q1) (h : InCosetUpTo q1 k x) : x < q1 := by
  obtain ⟨j, -, hj, n, rfl⟩ := h
  rw [iterate_doubleMod (hj.trans_lt hk)]
  exact Nat.mod_lt _ (Nat.zero_lt_of_lt hk)

/-! ### The loop of the generator -/

/-- The loop's variables after the exponents 1 … k. -/
def generatorFold (F : FieldState) (k : Nat) : Poly × List Nat := (List.range' 1 k).foldl (generatorStep F) ([1], [])

theorem generatorPoly_eq (F : FieldState) (t : Nat) : generatorPoly F t = (generatorFold F (2 * t)).1 := rfl

theorem generatorFold_succ (F : FieldState) (k : Nat) :
    generatorFold F (k + 1) = generatorStep F (generatorFold F k) (k + 1) := by
  rw [generatorFold, List.range'_1_concat, List.foldl_append, Nat.add_comm 1 k]
  rfl

theorem generatorStep_of_mem {F : FieldState} {acc : Poly × List Nat} {i : Nat} (hi : i < F.q1) (h : i ∈ acc.2) :
    generatorStep F acc i = acc := if_pos ((Nat.mod_eq_of_lt hi).symm ▸ h)

section
variable {c : Params} {F : FieldState} (hF : fieldBuilt c F)
include hF

theorem mem_periodicPts_doubleMod {i : Nat} (hi : i < F.q1) : i ∈ periodicPts (doubleMod F.q1) :=
  mk_mem_periodicPts hF.1 (isPeriodicPt_doubleMod hF hi)

/-- Cosets are disjoint: an exponent not covered has none of its coset covered. -/
theorem not_inCosetUpTo_iterate {k i : Nat} (hi : i < F.q1) (h : ¬ InCosetUpTo F.q1 k i) (n : Nat) :
    ¬ InCosetUpTo F.q1 k ((doubleMod F.q1)^[n] i) :=
  mt (mem_of_iterate_mem (p := InCosetUpTo F.q1 k) (fun _ hy => inCosetUpTo_iterate hy 1)
    (mem_periodicPts_doubleMod hF hi)) h

/-- The members of a coset are the first m doublings. -/
theorem inCosetUpTo_iff {k x : Nat} (hk : k < F.q1) :
    InCosetUpTo F.q1 k x ↔ ∃ j, 1 ≤ j ∧ j ≤ k ∧ ∃ e, e < F.deg ∧ 2 ^ e * j % F.q1 = x := by
  refine exists_congr fun j => and_congr_right fun _ => and_congr_right fun hj => ?_
  have hlt : j < F.q1 := hj.trans_lt hk
  simp only [← iterate_doubleMod hlt]
  refine ⟨fun ⟨n, hn⟩ => ⟨n % F.deg, Nat.mod_lt n hF.1, ?_⟩, fun ⟨e, _, he⟩ => ⟨e, he⟩⟩
  rw [(isPeriodicPt_doubleMod hF hlt).iterate_mod_apply, hn]

/-- An exponent whose coset is not covered yet gives a factor, and its coset is covered then. -/
theorem generatorStep_of_fresh {acc : Poly × List Nat} {i : Nat} (hi : i < F.q1)
    (h : ∀ n, (doubleMod F.q1)^[n] i ∉ acc.2) :
    generatorStep F acc i = (Poly.mul Arith.gf2 acc.1 (minimalPoly F (F.alphaPow i)),
      (orbitList (doubleMod F.q1) i).reverse ++ acc.2) := by
  have hperiod : minimalPeriod (doubleMod F.q1) i ≤ F.q1 :=
    ((isPeriodicPt_doubleMod hF hi).minimalPeriod_le hF.1).trans (deg_le_q1 hF)
  have hcover := coverCoset_iterate (mem_periodicPts_doubleMod hF hi) h (Nat.zero_le _)
    (hperiod.trans (Nat.zero_add _).ge)
  have hnew : i ∉ acc.2 := h 0
  rw [generatorStep, Nat.mod_eq_of_lt hi, if_neg hnew]
  exact congrArg (Prod.mk _) hcover

theorem mem_generatorFold_iff {k : Nat} (hk : k < F.q1) {x : Nat} :
    x ∈ (generatorFold F k).2 ↔ InCosetUpTo F.q1 k x := by
  induction k generalizing x with
  | zero => exact iff_of_false List.not_mem_nil (not_inCosetUpTo_zero _ _)
  | succ k ih =>
    have ih {x : Nat} := ih (Nat.lt_of_succ_lt hk) (x := x)
    rw [generatorFold_succ]
    by_cases hcov : InCosetUpTo F.q1 k (k + 1)
    · rw [generatorStep_of_mem hk (ih.mpr hcov), ih, inCosetUpTo_succ_iff_of_covered hcov]
    · rw [generatorStep_of_fresh hF hk fun n => mt ih.mp (not_inCosetUpTo_iterate hF hk hcov n), List.mem_append,
        List.mem_reverse, mem_orbitList_iff (mem_periodicPts_doubleMod hF hk), ih, inCosetUpTo_succ_iff]

theorem generatorFold_succ_of_covered {k : Nat} (hk : k + 1 < F.q1) (h : InCosetUpTo F.q1 k (k + 1)) :
    generatorFold F (k + 1) = generatorFold F k := by
  rw [generatorFold_succ, generatorStep_of_mem hk ((mem_generatorFold_iff hF (Nat.lt_of_succ_lt hk)).mpr h)]

theorem generatorFold_succ_of_new {k : Nat} (hk : k + 1 < F.q1) (h : ¬ InCosetUpTo F.q1 k (k + 1)) :
    generatorFold F (k + 1) = (Poly.mul Arith.gf2 (generatorFold F k).1 (minimalPoly F (F.alphaPow (k + 1))),
      (orbitList (doubleMod F.q1) (k + 1)).reverse ++ (generatorFold F k).2) := by
  rw [generatorFold_succ, generatorStep_of_fresh hF hk fun n => mt (mem_generatorFold_iff hF (Nat.lt_of_succ_lt hk)).mp
    (not_inCosetUpTo_iterate hF hk h n)]

/-- No exponent is covered twice. -/
theorem nodup_generatorFold {k : Nat} (hk : k < F.q1) : (generatorFold F k).2.Nodup := by
  induction k with
  | zero => exact List.nodup_nil
  | succ k ih =>
    have hk' := Nat.lt_of_succ_lt hk
    by_cases hcov : InCosetUpTo F.q1 k (k + 1)
    · rw [generatorFold_succ_of_covered hF hk hcov]
      exact ih hk'
    · rw [generatorFold_succ_of_new hF hk hcov]
      refine List.Nodup.append (List.nodup_reverse.mpr (nodup_orbitList _ _)) (ih hk') fun x hx hx' => ?_
      rw [List.mem_reverse, mem_orbitList_iff (mem_periodicPts_doubleMod hF hk)] at hx
      obtain ⟨n, rfl⟩ := hx
      exact not_inCosetUpTo_iterate hF hk hcov n ((mem_generatorFold_iff hF hk').mp hx')

/-! ### The first members of the cosets -/

/-- The exponent is in the coset of no smaller one from 1 on. -/
def firstInCoset (F : FieldState) (i : Nat) : Bool :=
  (List.range' 1 (i - 1)).all fun j => (List.range F.deg).all fun e => 2 ^ e * j % F.q1 != i

theorem firstInCoset_succ_iff {k : Nat} (hk : k < F.q1) :
    firstInCoset F (k + 1) = true ↔ ¬ InCosetUpTo F.q1 k (k + 1) := by
  rw [inCosetUpTo_iff hF hk]
  simp only [firstInCoset, List.all_eq_true, List.mem_range'_1, List.mem_range, bne_iff_ne, Nat.add_sub_cancel,
    Nat.one_add, Nat.lt_succ_iff, not_exists, not_and, and_imp, ne_eq]

/-- The loop multiplies the minimal polynomials of the first members, in order. -/
theorem generatorFold_fst {k : Nat} (hk : k < F.q1) : (generatorFold F k).1 =
    ((List.range' 1 k).filter (firstInCoset F)).foldl
      (fun g i => Poly.mul Arith.gf2 g (minimalPoly F (F.alogAt i))) [1] := by
  induction k with
  | zero => rfl
  | succ k ih =>
    have hk' := Nat.lt_of_succ_lt hk
    have hα : F.alphaPow (k + 1) = F.alogAt (k + 1) := congrArg F.alogAt (Nat.mod_eq_of_lt hk)
    rw [List.range'_1_concat, List.filter_append, List.foldl_append, ← ih hk', Nat.add_comm 1 k]
    by_cases hcov : InCosetUpTo F.q1 k (k + 1)
    · have hnot := mt (firstInCoset_succ_iff hF hk').mp (not_not.mpr hcov)
      rw [generatorFold_succ_of_covered hF hk hcov, List.filter_cons_of_neg hnot]
      rfl
    · have hfirst := (firstInCoset_succ_iff hF hk').mpr hcov
      rw [generatorFold_succ_of_new hF hk hcov, List.filter_cons_of_pos hfirst, hα]
      rfl

end

/-- Settles O46: the exponents that give a factor are those that no earlier coset covers. -/
theorem generatorTakesEachConjugacyClassOnce : Obligations.GeneratorTakesEachConjugacyClassOnce :=
  fun _ F t _ hF ht => (generatorPoly_eq F t).trans (generatorFold_fst hF ht)

end Sys2Proof.Machine
end

section
/-! The generator over the built field: its roots are the powers of α with a covered exponent, each once, so it divides
x^q1 + 1; and GENB, BUILDC and GENRD (43_minpoly_generator.md R183, R186–R188). -/

namespace Sys2Proof.Machine

open Sys2Proof.Spec Polynomial Function

/-! ### The roots of the generator -/

section
variable {c : Params} {F : FieldState} (hc : c.Valid) (hF : fieldBuilt c F) {K : Type} [Field K]
  (ρ : F.arith.FieldRep F.deg K)
include hc hF

theorem alphaPow_injOn : Set.InjOn F.alphaPow (Set.Iio F.q1) := fun i hi j hj hij => by
  refine alphaPower_injOn (fieldBuilt_tables hc hF).2.1 hF.1 hi hj ?_
  rw [← toNat_alphaPow hc hF, hij, toNat_alphaPow hc hF]

/-- The element α of the built field. -/
theorem exists_alpha : ∃ a : K, ∀ i, ρ.bits (a ^ i) = F.alphaPow i := by
  obtain ⟨a, ha⟩ := ρ.exists_bits _ (alphaPow_lt hc hF 1)
  refine ⟨a, fun i => ?_⟩
  induction i with
  | zero => rw [pow_zero, ρ.bits_one, alphaPow_zero hc hF]
  | succ i ih =>
    rw [pow_succ, ρ.bits_mul, ih, ha]
    exact mul_alphaPow hc hF i 1

variable {a : K} (ha : ∀ i, ρ.bits (a ^ i) = F.alphaPow i)
include ha

theorem alpha_pow_q1 : a ^ F.q1 = 1 := ρ.bits_injective (by rw [ha, alphaPow_q1 hc hF, ρ.bits_one])

theorem alpha_pow_injOn : Set.InjOn (a ^ ·) (Set.Iio F.q1) := fun i hi j hj hij =>
  alphaPow_injOn hc hF hi hj (by rw [← ha, ← ha]; exact congrArg ρ.bits hij)

/-- The conjugates of α^i are the powers with exponents in the coset of i. -/
theorem map_coset_eq_conjugates {i : Nat} (hi : i < F.q1) :
    (orbitList (doubleMod F.q1) i).map (a ^ ·) = conjugates (a ^ i) := by
  refine map_orbitList (s := Set.Iio F.q1) (fun y _ => Nat.mod_lt _ (Nat.zero_lt_of_lt hi))
    (alpha_pow_injOn hc hF ρ ha) (fun y _ => ?_) hi
  calc a ^ (2 * y % F.q1)
    _ = a ^ (2 * y) := ρ.bits_injective (by rw [ha, ha, alphaPow_congr (Nat.mod_mod _ _)])
    _ = (a ^ y) ^ 2 := by rw [← pow_mul, Nat.mul_comm]

/-- The covered powers of α after the exponents 1 … k, as often as they are covered. -/
def generatorRoots (F : FieldState) (a : K) (k : Nat) : Multiset K := ((generatorFold F k).2.map (a ^ ·) : List K)

theorem nodup_generatorRoots {k : Nat} (hk : k < F.q1) : (generatorRoots F a k).Nodup := by
  have hlt : ∀ e ∈ (generatorFold F k).2, e < F.q1 := fun e he =>
    lt_of_inCosetUpTo hk ((mem_generatorFold_iff hF hk).mp he)
  exact Multiset.coe_nodup.mpr <| (nodup_generatorFold hF hk).map_on fun i hi j hj =>
    fun hij => alpha_pow_injOn hc hF ρ ha (hlt i hi) (hlt j hj) hij

variable {φ : ZMod 2 →+* K} (hφ : ∀ x, ρ.bits (φ x) = gf2Rep.bits x)
include hφ

/-- The loop's polynomial is over GF(2), and its roots in the built field are the covered powers of α. -/
theorem exists_generatorFold_eq {k : Nat} (hk : k < F.q1) : ∃ g : (ZMod 2)[X],
    (generatorFold F k).1 = gf2Rep.poly g ∧ g.map φ = rootsPoly (generatorRoots F a k) := by
  induction k with
  | zero => exact ⟨1, gf2Rep.poly_one.symm, Polynomial.map_one φ⟩
  | succ k ih =>
    obtain ⟨g, hg, hroots⟩ := ih (Nat.lt_of_succ_lt hk)
    by_cases hcov : InCosetUpTo F.q1 k (k + 1)
    · rw [generatorRoots, generatorFold_succ_of_covered hF hk hcov]
      exact ⟨g, hg, hroots⟩
    · obtain ⟨f, hf, hfroots⟩ := exists_minimalPoly_eq_gf2 hc hF ρ hφ (a ^ (k + 1))
      have hadd : generatorRoots F a (k + 1) = conjugates (a ^ (k + 1)) + generatorRoots F a k := by
        rw [generatorRoots, generatorFold_succ_of_new hF hk hcov, List.map_append, List.map_reverse,
          map_coset_eq_conjugates hc hF ρ ha hk, ← Multiset.coe_add, Multiset.coe_reverse, generatorRoots]
      refine ⟨g * f, ?_, ?_⟩
      · rw [generatorFold_succ_of_new hF hk hcov, ← gf2Rep.mul_poly, ← hg, ← hf, ha]
      · rw [Polynomial.map_mul, hroots, hfroots, hadd, rootsPoly_add, mul_comm]

end

/-! ### The generator -/

theorem X_pow_add_one_ne_zero {K : Type} [Field K] {n : Nat} (hn : n ≠ 0) : (X ^ n + 1 : K[X]) ≠ 0 :=
  (monic_X_pow_add_C 1 hn).ne_zero

section
variable {c : Params} {F : FieldState} (hc : c.Valid) (hF : fieldBuilt c F) {t : Nat} (ht : 2 * t + 1 ≤ F.q1)
include hc hF ht

/-- The generator is a polynomial over GF(2) that divides x^q1 + 1, for its roots are distinct and α^q1 = 1; and
α, …, α^(2t) are among them. -/
theorem exists_generatorPoly_eq : ∃ g : (ZMod 2)[X], generatorPoly F t = gf2Rep.poly g ∧ g ∣ X ^ F.q1 + 1 ∧
    ∀ i, 1 ≤ i → i ≤ 2 * t → Poly.eval F.arith (gf2Rep.poly g) (F.alphaPow i) = 0 := by
  obtain ⟨K, _, ⟨ρ⟩⟩ := exists_fieldRep hc hF
  have := ρ.charP_two
  obtain ⟨φ, hφ⟩ := ρ.exists_gf2_embedding
  obtain ⟨a, ha⟩ := exists_alpha hc hF ρ
  obtain ⟨g, hg, hroots⟩ := exists_generatorFold_eq hc hF ρ ha hφ ht
  refine ⟨g, hg, ?_, fun i h1 hi => ?_⟩
  · have hmap : (X ^ F.q1 + 1 : (ZMod 2)[X]).map φ = X ^ F.q1 + 1 := by simp
    rw [← map_dvd_map' φ, hroots, hmap]
    refine rootsPoly_dvd (X_pow_add_one_ne_zero (Nat.ne_zero_of_lt ht)) (nodup_generatorRoots hc hF ρ ha ht)
      fun y hy => ?_
    obtain ⟨e, -, rfl⟩ := List.mem_map.mp (Multiset.mem_coe.mp hy)
    rw [eval_add, eval_pow, eval_X, eval_one, pow_right_comm, alpha_pow_q1 hc hF ρ ha, one_pow,
      CharTwo.add_self_eq_zero]
  · have hmem : a ^ i ∈ generatorRoots F a (2 * t) :=
      List.mem_map_of_mem ((mem_generatorFold_iff hF ht).mpr ⟨i, h1, hi, 0, rfl⟩)
    rw [← Arith.FieldRep.poly_map hφ, ← ha, ρ.eval_poly, hroots, eval_rootsPoly_of_mem hmem, ρ.bits_zero]
    rfl

/-- A register holds the generator: its degree is at most q1. -/
theorem storePoly_generatorPoly : storePoly c (generatorPoly F t) = generatorPoly F t := by
  obtain ⟨g, hg, hdvd, -⟩ := exists_generatorPoly_eq hc hF ht
  have hne : (X ^ F.q1 + 1 : (ZMod 2)[X]) ≠ 0 := X_pow_add_one_ne_zero (Nat.ne_zero_of_lt ht)
  have hdeg : g.natDegree ≤ F.q1 :=
    (natDegree_le_of_dvd hdvd hne).trans_eq (natDegree_X_pow_add_C (r := (1 : ZMod 2)))
  have hq := (q1_lt hc hF).1
  rw [hg]
  refine storePoly_of_fits (gf2Rep.trim_poly g) ?_ fun x hx =>
    (gf2Rep.coefs_poly g x hx).trans_le (Nat.pow_le_pow_right Nat.two_pos hc.1.1)
  rw [gf2Rep.length_poly_eq (ne_zero_of_dvd_ne_zero hne hdvd)]
  omega

theorem mem_generatorPoly {x : Elem} (hx : x ∈ generatorPoly F t) : x = 0 ∨ x = 1 := by
  obtain ⟨g, hg, -⟩ := exists_generatorPoly_eq hc hF ht
  have hlt : x.toNat < 2 := gf2Rep.coefs_poly g x (hg ▸ hx)
  bv_omega

/-- 0 is no root of x^q1 + 1, and so none of the generator. -/
theorem coef_zero_generatorPoly : Poly.coef (generatorPoly F t) 0 = 1 := by
  obtain ⟨g, hg, ⟨h, hgh⟩, -⟩ := exists_generatorPoly_eq hc hF ht
  have hprod : g.coeff 0 * h.coeff 0 = 1 := by
    rw [← mul_coeff_zero, ← hgh, coeff_add, coeff_X_pow, if_neg (Nat.ne_zero_of_lt ht).symm, coeff_one_zero,
      zero_add]
  rw [hg, gf2Rep.coef_poly, zmod_two_eq_one (left_ne_zero_of_mul_eq_one hprod)]
  rfl

theorem eval_generatorPoly {i : Nat} (h1 : 1 ≤ i) (hi : i ≤ 2 * t) :
    Poly.eval F.arith (generatorPoly F t) (F.alogAt i) = 0 := by
  obtain ⟨g, hg, -, hroots⟩ := exists_generatorPoly_eq hc hF ht
  have hα : F.alphaPow i = F.alogAt i := congrArg F.alogAt (Nat.mod_eq_of_lt (hi.trans_lt ht))
  rw [hg, ← hα]
  exact hroots i h1 hi

omit hc hF ht in
theorem xPowPlusOne_eq {n : Nat} (hn : n ≠ 0) : xPowPlusOne n = gf2Rep.poly (X ^ n + 1) := by
  have htrim : Poly.trim (xPowPlusOne n) = xPowPlusOne n := trim_trim _
  rw [← htrim]
  refine gf2Rep.trim_eq_poly fun j => ?_
  rw [xPowPlusOne, coef_tabulate, coeff_add, coeff_X_pow, coeff_one]
  by_cases h0 : j = 0
  · simp [h0, hn.symm, gf2Rep.bits_one]
  · by_cases hj : j = n
    · simp [hj, hn, gf2Rep.bits_one]
    · simp [h0, hj]

theorem generatorPoly_divides : Divides and2 1 (generatorPoly F t) (xPowPlusOne F.q1) := by
  obtain ⟨g, hg, hdvd, -⟩ := exists_generatorPoly_eq hc hF ht
  rw [xPowPlusOne_eq (Nat.ne_zero_of_lt ht)]
  exact (gf2Rep.divides_iff (by rw [hg, gf2Rep.trim_poly]) _).mpr hdvd

end

/-! ### GENB, BUILDC and GENRD -/

theorem gen_eq_generatorPoly {s : State} (h : s.Inv) (hcv : s.code.cv = true) :
    s.code.gen = generatorPoly s.field s.code.tNat := by
  obtain ⟨hfv, -, -, -, -, ht, -, hgen, -⟩ := h.codeOn hcv
  rw [hgen, storePoly_generatorPoly h.cfgValid (h.fieldOn hfv) ht]

/-- Settles O50: GEN is the generator, whose properties hold by its roots. -/
theorem acceptedCodeInvariants : Obligations.AcceptedCodeInvariants := by
  intro s h hcv n k t q1 g
  have hgen : g = generatorPoly s.field t := gen_eq_generatorPoly h hcv
  obtain ⟨hfv, hk, hkn, hn, ht, htq, hdeg, -⟩ := h.codeOn hcv
  have hc := h.cfgValid
  have hF := h.fieldOn hfv
  have hdvd : Divides and2 1 g (xPowPlusOne q1) := hgen ▸ generatorPoly_divides hc hF htq
  have hdeg' : Poly.deg g ≤ (n : Int) - k := (hgen ▸ hdeg).trans_eq (Int.ofNat_sub hkn)
  refine ⟨⟨hk, hkn, hn, ht, htq, hdeg'⟩, fun x hx => ?_, ?_, fun i h1 hi => ?_, hdvd, fun hnq => hnq ▸ hdvd⟩
  · exact mem_generatorPoly hc hF htq (hgen ▸ hx)
  · exact hgen ▸ coef_zero_generatorPoly hc hF htq
  · exact hgen ▸ eval_generatorPoly hc hF htq h1 hi

/-- Settles O47: a register holds the generator whole. -/
theorem genbWritesTheGenerator : Obligations.GenbWritesTheGenerator := by
  intro s d a h hfv t
  have hx : exec (.genb d a) s = if s.field.q1 < 2 * t + 1 then .next (erroring s 0x02)
    else finish (s.writeP d (generatorPoly s.field t)) := if_pos hfv
  refine ⟨fun ht => ⟨_, hx.trans (if_neg ht.not_gt), wroteP_complete s d _, ?_⟩, fun ht => hx.trans (if_pos ht)⟩
  rw [readP_writeP_complete, storePoly_generatorPoly h.cfgValid (h.fieldOn hfv) ht]
  exact ⟨fun _ _ => rfl, fun h0 => by rw [h0]; rfl⟩

/-- The code state BUILDC commits (43_minpoly_generator.md R186). -/
def State.builtCode (s : State) (a b c : RReg) (ns : Bool) : CodeState :=
  let g := generatorPoly s.field (s.natReg c)
  { cv := true, n := s.readR a, k := s.readR b, t := s.readR c, nonsys := ns, gen := storePoly s.cfg g,
    genDeg := degWord (Poly.deg g) }

/-- BUILDC commits the code that passes the checks of a built code, and raises its one error for any other. -/
theorem exec_buildc {s : State} (hfv : s.field.fv = true) (a b c : RReg) (ns : Bool) : exec (.buildc a b c ns) s =
    if codeBuilt s.cfg s.field (s.builtCode a b c ns) then
      .next { s with code := s.builtCode a b c ns, done := true, phase := .idle }
    else .next (erroring s 0x02) := by
  split
  next hbuilt =>
    obtain ⟨hk, hkn, hn, ht, htq, hdeg, -⟩ := hbuilt
    exact (if_pos hfv).trans ((if_neg (not_not.mpr ⟨hk, hkn, hn⟩)).trans ((if_neg ht.not_gt).trans
      ((if_neg htq.not_gt).trans (if_neg hdeg.not_gt))))
  next hnot =>
    refine (if_pos hfv).trans <| ite_eq_left_iff.mpr fun hnk => ite_eq_left_iff.mpr fun ht =>
      ite_eq_left_iff.mpr fun htq => if_pos (Int.not_le.mp fun hdeg => hnot ?_)
    obtain ⟨hk, hkn, hn⟩ := not_not.mp hnk
    exact ⟨hk, hkn, hn, Nat.not_lt.mp ht, Nat.not_lt.mp htq, hdeg, rfl, rfl⟩

/-- Settles O48: the checks are those of a built code, a register holds the generator whole, and in the state of the
invariant after the commit GEN_DEG is its degree. -/
theorem buildcChecksAndBuildsTheCode : Obligations.BuildcChecksAndBuildsTheCode := by
  intro s a b c ns h hfv n k t g ok
  have hx := exec_buildc hfv a b c ns
  have hok : ok ↔ codeBuilt s.cfg s.field (s.builtCode a b c ns) := by
    refine ⟨fun ⟨hk, hkn, hn, ht, htq, hdeg⟩ => ?_, fun ⟨hk, hkn, hn, ht, htq, hdeg, _⟩ => ?_⟩
    · exact ⟨hk, hkn, hn, ht, htq, hdeg.trans_eq (Int.ofNat_sub hkn).symm, rfl, rfl⟩
    · exact ⟨hk, hkn, hn, ht, htq, hdeg.trans_eq (Int.ofNat_sub hkn)⟩
  refine ⟨fun h' => ?_, fun h' => hx.trans (if_neg (mt hok.mpr h'))⟩
  rw [if_pos (hok.mp h')] at hx
  obtain ⟨-, -, -, -, htq, -⟩ := h'
  have hgen : storePoly s.cfg g = g := storePoly_generatorPoly h.cfgValid (h.fieldOn hfv) htq
  exact ⟨_, hx, rfl, rfl, rfl, rfl, rfl, rfl, hgen,
    (genDeg_toNat (inv_exec h hx) rfl).trans (congrArg Poly.deg hgen)⟩

/-- Settles O49: GEN fits a register, and GEN_DEG is its degree. -/
theorem genrdCopiesTheGenerator : Obligations.GenrdCopiesTheGenerator := by
  intro s d h hcv
  obtain ⟨htrim, hlen, hcoefs⟩ := h.genFits
  have hread : (s.writeP d s.code.gen).complete.readP d = s.code.gen := by
    rw [readP_writeP_complete, storePoly_of_fits htrim hlen hcoefs]
  refine ⟨_, if_pos hcv, wroteP_complete s d _, hread, ?_⟩
  rw [hread, genDeg_toNat h hcv]

end Sys2Proof.Machine
end

section
/-! The codec's words as polynomials over GF(2): the encoder's words are multiples of the generator, and recovering
undoes encoding (44_codec.md R200–R203, R216, R217). -/

namespace Sys2Proof.Machine

open Sys2Proof.Spec Polynomial

/-! ### Tabulated coefficients and bit vectors -/

/-- Canonical lists with equal coefficients are equal (log 12). -/
theorem eq_of_coef {p q : Poly} (hp : Poly.trim p = p) (hq : Poly.trim q = q)
    (h : ∀ j, Poly.coef p j = Poly.coef q j) : p = q := hp.symm.trans ((trim_eq_of_coef h).trans hq)

namespace Arith.FieldRep

variable {A : Arith} {n : Nat} {K : Type} [Field K] (ρ : A.FieldRep n K) {L : Nat} {v : Nat → Elem}

theorem tabulate_eq_poly {f : K[X]} (hf : f.degree < L) (hv : ∀ j, j < L → v j = ρ.bits (f.coeff j)) :
    Poly.tabulate L v = ρ.poly f := by
  refine eq_of_coef (trim_trim _) (ρ.trim_poly f) fun j => ?_
  rw [coef_tabulate, ρ.coef_poly]
  split
  next hj => exact hv j hj
  next hj =>
    rw [(degree_lt_iff_coeff_zero f L).mp hf j (Nat.not_lt.mp hj), ρ.bits_zero]
    rfl

theorem exists_tabulate_eq_poly (hv : ∀ j, j < L → (v j).toNat < 2 ^ n) :
    ∃ f : K[X], Poly.tabulate L v = ρ.poly f ∧ f.degree < L := by
  have hcoefs : Coefs n ((List.range L).map v) := fun x hx => by
    obtain ⟨j, hj, rfl⟩ := List.mem_map.mp hx
    exact hv j (List.mem_range.mp hj)
  obtain ⟨f, hf⟩ := ρ.exists_trim_eq_poly hcoefs
  refine ⟨f, hf, ρ.length_poly_le_iff.mp (hf ▸ (trim_length_le _).trans ?_)⟩
  rw [List.length_map, List.length_range]

theorem deg_poly_lt_natCast_iff {f : K[X]} : Poly.deg (ρ.poly f) < L ↔ f.degree < L := by
  rw [← ρ.length_poly_le_iff, Poly.deg, ρ.trim_poly]
  omega

end Arith.FieldRep

/-- A bit-vector operand of length L is a polynomial over GF(2) of degree below L (44_codec.md R200). -/
theorem exists_bitVector_eq_poly (L : Nat) (P : Poly) :
    ∃ f : (ZMod 2)[X], bitVector L P = gf2Rep.poly f ∧ f.degree < L :=
  gf2Rep.exists_tabulate_eq_poly fun _ _ => lowBits_lt 1 _

theorem bitVector_poly {L : Nat} {f : (ZMod 2)[X]} (hf : f.degree < L) :
    bitVector L (gf2Rep.poly f) = gf2Rep.poly f :=
  gf2Rep.tabulate_eq_poly hf fun j _ => by rw [gf2Rep.coef_poly, lowBits_of_lt (gf2Rep.bits_lt _)]

/-! ### The encoder -/

/-- `g` is the generator in `C`, and leaves room for k message bits below n (43_minpoly_generator.md R186). -/
structure CodeState.GeneratedBy (C : CodeState) (g : (ZMod 2)[X]) : Prop where
  gen_eq : C.gen = gf2Rep.poly g
  ne_zero : g ≠ 0
  kNat_le : C.kNat ≤ C.nNat
  natDegree_le : g.natDegree ≤ C.nNat - C.kNat

/-- `encode(m)` in GF(2)[x] (44_codec.md R202). -/
noncomputable def CodeState.codeword (C : CodeState) (g m : (ZMod 2)[X]) : (ZMod 2)[X] :=
  if C.nonsys then m * g else X ^ (C.nNat - C.kNat) * m + X ^ (C.nNat - C.kNat) * m % g

theorem trim_mul (A : Arith) (p q : Poly) : Poly.trim (Poly.mul A p q) = Poly.mul A p q := by
  cases p with
  | nil => rfl
  | cons a p => exact trim_trim _

theorem mul_trim_left {A : Arith} (hA : A.KeepsOne) (p q : Poly) : Poly.mul A (Poly.trim p) q = Poly.mul A p q := by
  induction p with
  | nil => rfl
  | cons a p ih =>
    by_cases hzero : Poly.trim (a :: p) = []
    · have hcoef : ∀ j, Poly.coef (a :: p) j = 0#16 := fun j => by rw [← coef_trim, hzero, coef_nil]
      refine eq_of_coef (trim_mul ..) (trim_mul ..) fun j => ?_
      rw [coef_mul_of_zero hA hcoef, hzero, Poly.mul, coef_nil]
    · by_cases hp : Poly.trim p = []
      · rw [trim_cons_of_eq a hp] at hzero ⊢
        rw [if_neg (ite_ne_left_iff.mp hzero).1]
        rw [hp] at ih
        simp only [Poly.mul, ← ih]
      · rw [trim_cons_of_ne a hp, Poly.mul, Poly.mul, ih]

/-- Trailing zeros of a message do not matter. -/
theorem encodeMsg_trim (C : CodeState) (msg : Poly) : encodeMsg C (Poly.trim msg) = encodeMsg C msg := by
  have hshift : Poly.shift (C.nNat - C.kNat) (Poly.trim msg) = Poly.shift (C.nNat - C.kNat) msg :=
    eq_of_coef (trim_trim _) (trim_trim _) fun j => by rw [coef_shift, coef_shift, coef_trim]
  rw [encodeMsg, encodeMsg, mul_trim_left gf2_keepsOne, hshift]

section
variable {C : CodeState} {g : (ZMod 2)[X]} (hC : C.GeneratedBy g)
include hC

theorem encodeMsg_poly (m : (ZMod 2)[X]) : encodeMsg C (gf2Rep.poly m) = gf2Rep.poly (C.codeword g m) := by
  rw [encodeMsg, CodeState.codeword, hC.gen_eq]
  split
  · exact gf2Rep.mul_poly m g
  · dsimp only
    rw [gf2Rep.shift_poly, gf2Rep.divMod_poly _ hC.ne_zero, gf2Rep.add_poly]

omit hC in
/-- "every `encode(msg)` is a multiple of g" (44_codec.md R203): in characteristic 2 the remainder is subtracted. -/
theorem dvd_codeword (m : (ZMod 2)[X]) : g ∣ C.codeword g m := by
  rw [CodeState.codeword]
  split
  · exact dvd_mul_left g m
  · rw [← CharTwo.sub_eq_add]
    exact ⟨_, sub_eq_of_eq_add (EuclideanDomain.div_add_mod _ g).symm⟩

/-- The remainder of R202 lies below position n − k. -/
theorem degree_mod_gen_lt (f : (ZMod 2)[X]) : (f % g).degree < (C.nNat - C.kNat : Nat) :=
  (degree_mod_lt f hC.ne_zero).trans_le (degree_le_of_natDegree_le hC.natDegree_le)

/-- "and has degree ≤ n − 1" (44_codec.md R203). -/
theorem degree_codeword_lt {m : (ZMod 2)[X]} (hm : m.degree < C.kNat) : (C.codeword g m).degree < C.nNat := by
  have hn : (C.nNat : WithBot Nat) = (C.nNat - C.kNat : Nat) + C.kNat := by
    rw [← Nat.cast_add, Nat.sub_add_cancel hC.kNat_le]
  rw [CodeState.codeword]
  split
  · rw [degree_mul, add_comm, hn]
    exact WithBot.add_lt_add_of_le_of_lt (degree_ne_bot.mpr hC.ne_zero)
      (degree_le_of_natDegree_le hC.natDegree_le) hm
  · refine (degree_add_le _ _).trans_lt (max_lt ?_ ((degree_mod_gen_lt hC _).trans_le ?_))
    · rw [degree_mul, degree_X_pow, hn]
      exact WithBot.add_lt_add_left (WithBot.natCast_ne_bot _) hm
    · exact Nat.cast_le.mpr (Nat.sub_le _ _)

/-- "c_{n−k+j} = msg_j" in systematic form (44_codec.md R202). -/
theorem coeff_codeword_high (hsys : C.nonsys = false) (m : (ZMod 2)[X]) (j : Nat) :
    (C.codeword g m).coeff (C.nNat - C.kNat + j) = m.coeff j := by
  have hrem := (degree_lt_iff_coeff_zero _ _).mp (degree_mod_gen_lt hC (X ^ (C.nNat - C.kNat) * m))
  rw [CodeState.codeword, if_neg (Bool.eq_false_iff.mp hsys), coeff_add, hrem _ (Nat.le_add_right _ j), add_zero,
    Nat.add_comm, coeff_X_pow_mul]

/-- Between the remainder and the message a systematic codeword is 0. -/
theorem coeff_codeword_middle (hsys : C.nonsys = false) (m : (ZMod 2)[X]) {j : Nat} (hj : g.natDegree ≤ j)
    (hjk : j < C.nNat - C.kNat) : (C.codeword g m).coeff j = 0 := by
  have hrem := degree_mod_lt (X ^ (C.nNat - C.kNat) * m) hC.ne_zero
  rw [degree_eq_natDegree hC.ne_zero] at hrem
  rw [CodeState.codeword, if_neg (Bool.eq_false_iff.mp hsys), coeff_add, coeff_X_pow_mul', if_neg hjk.not_ge,
    (degree_lt_iff_coeff_zero _ _).mp hrem j hj, add_zero]

/-! ### Recovering a message -/

/-- The message read from a word over GF(2) is a polynomial over GF(2) of degree below k (44_codec.md R216). -/
theorem exists_recoverMsg_eq_poly (w : (ZMod 2)[X]) :
    ∃ m : (ZMod 2)[X], (recoverMsg C (gf2Rep.poly w)).1 = gf2Rep.poly m ∧ m.degree < C.kNat := by
  have hbit (f : (ZMod 2)[X]) (j : Nat) : (Poly.coef (gf2Rep.poly f) j).toNat < 2 ^ 1 :=
    coefs_iff.mp (gf2Rep.coefs_poly f) j
  rw [recoverMsg, hC.gen_eq, gf2Rep.divMod_poly w hC.ne_zero]
  dsimp only
  split
  · exact gf2Rep.exists_tabulate_eq_poly fun j _ => hbit (w / g) j
  · exact gf2Rep.exists_tabulate_eq_poly fun j _ => hbit w _

omit hC in
/-- The re-encoding check of 44_codec.md R217. -/
theorem encodeMsg_recoverMsg {w : Poly} (h : (recoverMsg C w).2 = true) : encodeMsg C (recoverMsg C w).1 = w :=
  beq_iff_eq.mp (Bool.and_elim_right h)

/-- Recovering undoes encoding (44_codec.md R216, R217). -/
theorem recoverMsg_codeword {m : (ZMod 2)[X]} (hm : m.degree < C.kNat) :
    recoverMsg C (gf2Rep.poly (C.codeword g m)) = (gf2Rep.poly m, true) := by
  have hquot (hns : C.nonsys = true) : Poly.tabulate C.kNat (Poly.coef (gf2Rep.poly (C.codeword g m / g))) =
      gf2Rep.poly m := gf2Rep.tabulate_eq_poly hm fun j _ => by
    rw [gf2Rep.coef_poly, CodeState.codeword, if_pos hns, mul_div_cancel_right₀ m hC.ne_zero]
  have hhigh (hsys : C.nonsys = false) : Poly.tabulate C.kNat
      (fun j => gf2Rep.bits ((C.codeword g m).coeff (C.nNat - C.kNat + j))) = gf2Rep.poly m :=
    gf2Rep.tabulate_eq_poly hm fun j _ => by rw [coeff_codeword_high hC hsys]
  have hmod : C.codeword g m % g = 0 := EuclideanDomain.mod_eq_zero.mpr (dvd_codeword m)
  rw [recoverMsg, hC.gen_eq, gf2Rep.divMod_poly _ hC.ne_zero, hmod, gf2Rep.poly_zero]
  cases hns : C.nonsys with
  | true => simp [hquot hns, encodeMsg_poly hC]
  | false => simp [hhigh hns, encodeMsg_poly hC]

/-- A word passes the checks exactly where some k-bit message encodes to it. -/
theorem recoverMsg_snd_iff {w : (ZMod 2)[X]} :
    (recoverMsg C (gf2Rep.poly w)).2 = true ↔ ∃ m : (ZMod 2)[X], m.degree < C.kNat ∧ C.codeword g m = w := by
  refine ⟨fun h => ?_, fun ⟨m, hm, hw⟩ => by rw [← hw, recoverMsg_codeword hC hm]⟩
  obtain ⟨m, hmsg, hm⟩ := exists_recoverMsg_eq_poly hC w
  refine ⟨m, hm, gf2Rep.poly_injective ?_⟩
  rw [← encodeMsg_poly hC, ← hmsg, encodeMsg_recoverMsg h]

end

/-! ### The generator of a built code -/

section
variable {s : State} (h : s.Inv) (hcv : s.code.cv = true)
include h hcv

theorem nNat_le_polyLen : s.code.nNat ≤ s.cfg.polyLen := by
  obtain ⟨hfv, -, -, hn, -⟩ := h.codeOn hcv
  exact hn.trans (q1_lt h.cfgValid (h.fieldOn hfv)).1.le

/-- A codeword, a message, a received word or a mask is stored whole. -/
theorem storePoly_of_degree_lt {f : (ZMod 2)[X]} (hf : f.degree < s.code.nNat) :
    storePoly s.cfg (gf2Rep.poly f) = gf2Rep.poly f :=
  gf2Rep.storePoly_poly h.cfgValid.1.1 ((gf2Rep.length_poly_le_iff.mpr hf).trans (nNat_le_polyLen h hcv))

theorem exists_generatedBy : ∃ g, s.code.GeneratedBy g := by
  have hgen := gen_eq_generatorPoly h hcv
  obtain ⟨hfv, -, hkn, -, -, ht, hdeg, -⟩ := h.codeOn hcv
  obtain ⟨g, hg, hdvd, -⟩ := exists_generatorPoly_eq h.cfgValid (h.fieldOn hfv) ht
  have hne : g ≠ 0 := ne_zero_of_dvd_ne_zero (X_pow_add_one_ne_zero (Nat.ne_zero_of_lt ht)) hdvd
  rw [hg, gf2Rep.deg_poly hne] at hdeg
  exact ⟨g, hgen.trans hg, hne, hkn, Int.ofNat_le.mp hdeg⟩

end

/-! ### ENC -/

theorem exec_enc {s : State} (hcv : s.code.cv = true) (d a : PReg) (b : RReg) : exec (.enc d a b) s =
    if s.readR b ≠ s.code.k then .next (erroring s 0x05)
    else finish (s.writeP d (encodeMsg s.code (bitVector s.code.kNat (s.readP a)))) := if_pos hcv

/-- A command that finishes with a polynomial that p[d] holds whole writes exactly that. -/
theorem wroteP_of_finish {s : State} {x : Result} {d : PReg} {P : Poly} (hx : x = finish (s.writeP d P))
    (hP : storePoly s.cfg P = P) : ∃ t, x = .next t ∧ WroteP s t d ∧ t.readP d = P :=
  ⟨_, hx, wroteP_complete s d P, (readP_writeP_complete s d P).trans hP⟩

theorem enc_outcome {s : State} (h : s.Inv) (hcv : s.code.cv = true) {g : (ZMod 2)[X]} (hC : s.code.GeneratedBy g)
    (d a : PReg) {b : RReg} (hb : s.readR b = s.code.k) : ∃ (t : State) (m : (ZMod 2)[X]),
      exec (.enc d a b) s = .next t ∧ WroteP s t d ∧ bitVector s.code.kNat (s.readP a) = gf2Rep.poly m ∧
      m.degree < s.code.kNat ∧ t.readP d = gf2Rep.poly (s.code.codeword g m) := by
  obtain ⟨m, hm, hmk⟩ := exists_bitVector_eq_poly s.code.kNat (s.readP a)
  have hx := (exec_enc hcv d a b).trans (if_neg (not_not.mpr hb))
  rw [hm, encodeMsg_poly hC] at hx
  obtain ⟨t, hx, hw, ht⟩ := wroteP_of_finish hx (storePoly_of_degree_lt h hcv (degree_codeword_lt hC hmk))
  exact ⟨t, m, hx, hw, hm, hmk, ht⟩

/-- Settles O51: the codeword is a multiple of g of degree below n, so the register holds it whole. -/
theorem encIsAMultipleOfTheGenerator : Obligations.EncIsAMultipleOfTheGenerator := by
  intro s d a b h hcv n k msg
  refine ⟨fun hb => ?_, fun hb => (exec_enc hcv d a b).trans (if_pos hb)⟩
  obtain ⟨g, hC⟩ := exists_generatedBy h hcv
  obtain ⟨t, m, hx, hw, hm, hmk, ht⟩ := enc_outcome h hcv hC d a hb
  have hmsg : msg = gf2Rep.poly m := hm
  refine ⟨t, hx, hw, ?_⟩
  rw [ht, hmsg, encodeMsg_poly hC, hC.gen_eq]
  refine ⟨rfl, gf2Rep.coefs_poly _, (gf2Rep.divides_iff (gf2Rep.trim_poly g) _).mpr (dvd_codeword m),
    gf2Rep.deg_poly_lt_natCast_iff.mpr (degree_codeword_lt hC hmk), fun hsys => ⟨fun j _ => ?_, fun j hj hjk => ?_⟩,
    fun hns j => ?_⟩
  · rw [gf2Rep.coef_poly, gf2Rep.coef_poly]
    exact congrArg gf2Rep.bits (coeff_codeword_high hC hsys m j)
  · rw [gf2Rep.deg_poly hC.ne_zero] at hj
    rw [gf2Rep.coef_poly, coeff_codeword_middle hC hsys m (Int.ofNat_le.mp hj) hjk]
    exact gf2Rep.bits_zero
  · rw [conv_and2_poly, gf2Rep.coef_poly, CodeState.codeword, if_pos hns]

end Sys2Proof.Machine
end

section
/-! The syndromes of a received word, and that they are all 0 exactly on the multiples of the generator (44_codec.md
R205–R207). -/

namespace Sys2Proof.Machine

open Sys2Proof.Spec Polynomial

/-! ### Roots of a polynomial over GF(2) -/

section
variable {c : Params} {F : FieldState} (hc : c.Valid) (hF : fieldBuilt c F) {K : Type} [Field K]
  (ρ : F.arith.FieldRep F.deg K) {φ : ZMod 2 →+* K} (hφ : ∀ x, ρ.bits (φ x) = gf2Rep.bits x)

include hφ in
/-- Evaluation at α^i of a polynomial over GF(2), in K. -/
theorem eval_gf2_alphaPow {a : K} (ha : ∀ i, ρ.bits (a ^ i) = F.alphaPow i) (f : (ZMod 2)[X]) (i : Nat) :
    Poly.eval F.arith (gf2Rep.poly f) (F.alphaPow i) = ρ.bits ((f.map φ).eval (a ^ i)) := by
  rw [← Arith.FieldRep.poly_map hφ, ← ha, ρ.eval_poly]

/-- Squaring a point squares the value of a polynomial over GF(2) (40_field.md R127). -/
theorem eval_map_sq (φ : ZMod 2 →+* K) (f : (ZMod 2)[X]) (y : K) : (f.map φ).eval (y ^ 2) = (f.map φ).eval y ^ 2 := by
  rw [← expand_eval, ← map_expand, ZMod.expand_card, Polynomial.map_pow, eval_pow]

/-- A polynomial over GF(2) that vanishes at α, …, α^k vanishes at every conjugate of them. -/
theorem eval_eq_zero_of_inCosetUpTo {a : K} (ha : ∀ i, ρ.bits (a ^ i) = F.alphaPow i) {f : (ZMod 2)[X]} {k e : Nat}
    (hf : ∀ i, 1 ≤ i → i ≤ k → (f.map φ).eval (a ^ i) = 0) (he : InCosetUpTo F.q1 k e) :
    (f.map φ).eval (a ^ e) = 0 := by
  obtain ⟨j, h1, hj, l, rfl⟩ := he
  induction l with
  | zero => exact hf j h1 hj
  | succ l ih =>
    have hdouble (e : Nat) : a ^ doubleMod F.q1 e = (a ^ e) ^ 2 := by
      rw [← pow_mul, Nat.mul_comm]
      exact ρ.bits_injective (by rw [ha, ha, alphaPow_congr (Nat.mod_mod _ _)])
    rw [Function.iterate_succ_apply', hdouble, eval_map_sq, ih, zero_pow two_ne_zero]

include hc hF

omit ρ in
theorem eval_gf2_lt (f : (ZMod 2)[X]) (i : Nat) :
    (Poly.eval F.arith (gf2Rep.poly f) (F.alphaPow i)).toNat < 2 ^ F.deg := by
  obtain ⟨K, _, ⟨ρ⟩⟩ := exists_fieldRep hc hF
  obtain ⟨φ, hφ⟩ := ρ.exists_gf2_embedding
  obtain ⟨a, ha⟩ := exists_alpha hc hF ρ
  rw [eval_gf2_alphaPow ρ hφ ha]
  exact ρ.bits_lt _

omit ρ in
/-- g divides exactly the words that vanish at α, …, α^(2t): its roots are their conjugates, each once. -/
theorem generatorPoly_dvd_iff {t : Nat} (ht : 2 * t + 1 ≤ F.q1) {g : (ZMod 2)[X]}
    (hg : generatorPoly F t = gf2Rep.poly g) (f : (ZMod 2)[X]) :
    g ∣ f ↔ ∀ i, 1 ≤ i → i ≤ 2 * t → Poly.eval F.arith (gf2Rep.poly f) (F.alphaPow i) = 0 := by
  obtain ⟨K, _, ⟨ρ⟩⟩ := exists_fieldRep hc hF
  obtain ⟨φ, hφ⟩ := ρ.exists_gf2_embedding
  obtain ⟨a, ha⟩ := exists_alpha hc hF ρ
  obtain ⟨g', hg', hroots⟩ := exists_generatorFold_eq hc hF ρ ha hφ ht
  obtain rfl : g = g' := gf2Rep.poly_injective (hg.symm.trans hg')
  have hval (i : Nat) : Poly.eval F.arith (gf2Rep.poly f) (F.alphaPow i) = 0 ↔ (f.map φ).eval (a ^ i) = 0 := by
    rw [eval_gf2_alphaPow ρ hφ ha]
    exact ρ.bits_eq_zero_iff
  simp only [hval]
  rw [← map_dvd_map' φ, hroots]
  refine ⟨fun hdvd i h1 hi => ?_, fun hzero => ?_⟩
  · have hmem : a ^ i ∈ generatorRoots F a (2 * t) :=
      List.mem_map_of_mem ((mem_generatorFold_iff hF ht).mpr ⟨i, h1, hi, 0, rfl⟩)
    exact eval_eq_zero_of_dvd_of_eval_eq_zero hdvd (eval_rootsPoly_of_mem hmem)
  · by_cases hf : f.map φ = 0
    · exact hf ▸ dvd_zero _
    · refine rootsPoly_dvd hf (nodup_generatorRoots hc hF ρ ha ht) fun y hy => ?_
      obtain ⟨e, he, rfl⟩ := List.mem_map.mp (Multiset.mem_coe.mp hy)
      exact eval_eq_zero_of_inCosetUpTo ρ ha hzero ((mem_generatorFold_iff hF ht).mp he)

end

/-! ### SYN -/

theorem coef_syndromes (F : FieldState) (t : Nat) (rcv : Poly) (i : Nat) : Poly.coef (syndromes F t rcv) i =
    if 1 ≤ i ∧ i ≤ 2 * t then Poly.eval F.arith rcv (F.alphaPow i) else 0 := by
  rw [syndromes, coef_tabulate]
  by_cases h0 : i = 0
  · simp [h0]
  · rw [if_neg h0]
    exact if_congr (by omega) rfl rfl

theorem allZero_iff {t : Nat} {S : Poly} : allZero t S = true ↔ ∀ i, 1 ≤ i → i ≤ 2 * t → Poly.coef S i = 0 := by
  simp only [allZero, List.all_eq_true, List.mem_range, beq_iff_eq]
  refine ⟨fun h i h1 hi => ?_, fun h i hi => h _ i.succ_pos hi⟩
  obtain ⟨i, rfl⟩ := Nat.exists_eq_succ_of_ne_zero (Nat.one_le_iff_ne_zero.mp h1)
  exact h i hi

theorem allZero_syndromes_iff {F : FieldState} {t : Nat} {rcv : Poly} : allZero t (syndromes F t rcv) = true ↔
    ∀ i, 1 ≤ i → i ≤ 2 * t → Poly.eval F.arith rcv (F.alphaPow i) = 0 :=
  allZero_iff.trans <| forall₃_congr fun i h1 hi => by rw [coef_syndromes, if_pos ⟨h1, hi⟩]

/-- Outside 1 … 2t the vector is 0 anyway (44_codec.md R206). -/
theorem coef_syndromes_eq_zero_iff {F : FieldState} {t : Nat} {rcv : Poly} :
    (∀ i, Poly.coef (syndromes F t rcv) i = 0) ↔ allZero t (syndromes F t rcv) = true := by
  refine ⟨fun h => allZero_iff.mpr fun i _ _ => h i, fun h i => ?_⟩
  by_cases hi : 1 ≤ i ∧ i ≤ 2 * t
  · exact allZero_iff.mp h i hi.1 hi.2
  · rw [coef_syndromes, if_neg hi]

section
variable {s : State} (h : s.Inv) (hcv : s.code.cv = true)
include h hcv

theorem fieldBuilt_of_cv : fieldBuilt s.cfg s.field := h.fieldOn (h.codeOn hcv).1

theorem two_mul_tNat_lt : 2 * s.code.tNat < s.field.q1 := by
  obtain ⟨-, -, -, -, -, ht, -⟩ := h.codeOn hcv
  exact ht

theorem alphaPow_eq_alogAt {i : Nat} (hi : i ≤ 2 * s.code.tNat) : s.field.alphaPow i = s.field.alogAt i :=
  congrArg s.field.alogAt (Nat.mod_eq_of_lt (hi.trans_lt (two_mul_tNat_lt h hcv)))

/-- The syndromes, and every locator, are stored whole. -/
theorem storePoly_of_degree_le {K : Type} [Field K] (ρ : s.field.arith.FieldRep s.field.deg K) {f : K[X]}
    (hf : f.degree < (2 * s.code.tNat + 1 : Nat)) : storePoly s.cfg (ρ.poly f) = ρ.poly f := by
  have hF := fieldBuilt_of_cv h hcv
  have ht := two_mul_tNat_lt h hcv
  have hq := (q1_lt h.cfgValid hF).1
  exact ρ.storePoly_poly hF.2.1 ((ρ.length_poly_le_iff.mpr hf).trans (by omega))

/-- The syndromes of a received word are field elements. -/
theorem exists_syndromes_eq_poly {K : Type} [Field K] (ρ : s.field.arith.FieldRep s.field.deg K) (f : (ZMod 2)[X]) :
    ∃ S : K[X], syndromes s.field s.code.tNat (gf2Rep.poly f) = ρ.poly S ∧
      S.degree < (2 * s.code.tNat + 1 : Nat) := by
  refine ρ.exists_tabulate_eq_poly fun i _ => ?_
  split
  · exact Nat.two_pow_pos _
  · exact eval_gf2_lt h.cfgValid (fieldBuilt_of_cv h hcv) f i

theorem syn_outcome (d a : PReg) {b : RReg} (hb : s.readR b = s.code.n) :
    ∃ t, exec (.syn d a b) s = .next t ∧ WroteP s t d ∧
      t.readP d = syndromes s.field s.code.tNat (bitVector s.code.nNat (s.readP a)) := by
  obtain ⟨K, _, ⟨ρ⟩⟩ := exists_fieldRep h.cfgValid (fieldBuilt_of_cv h hcv)
  obtain ⟨f, hf, -⟩ := exists_bitVector_eq_poly s.code.nNat (s.readP a)
  obtain ⟨S, hS, hdeg⟩ := exists_syndromes_eq_poly h hcv ρ f
  rw [← hf] at hS
  exact wroteP_of_finish (exec_syn hcv d a hb) (hS ▸ storePoly_of_degree_le h hcv ρ hdeg)

/-- "The syndromes are all zero exactly when g divides rcv" (44_codec.md R207). -/
theorem allZero_syndromes_iff_dvd {g : (ZMod 2)[X]} (hC : s.code.GeneratedBy g) (f : (ZMod 2)[X]) :
    allZero s.code.tNat (syndromes s.field s.code.tNat (gf2Rep.poly f)) = true ↔ g ∣ f := by
  have hgen := (gen_eq_generatorPoly h hcv).symm.trans hC.gen_eq
  rw [allZero_syndromes_iff,
    generatorPoly_dvd_iff h.cfgValid (fieldBuilt_of_cv h hcv) (two_mul_tNat_lt h hcv) hgen]

end

/-- Settles O52: coefficient i of the vector is the value at α^i, and the register holds it whole. -/
theorem synWritesTheSyndromeVector : Obligations.SynWritesTheSyndromeVector := by
  intro s d a b h hcv rcv
  refine ⟨fun hb => ?_, fun hb => (if_pos hcv).trans (if_pos hb)⟩
  obtain ⟨t, hx, hw, ht⟩ := syn_outcome h hcv d a hb
  refine ⟨t, hx, hw, fun i => ?_⟩
  rw [ht, coef_syndromes]
  split
  next hi =>
    rw [alphaPow_eq_alogAt h hcv hi.2]
    exact (if_pos hi).symm
  next hi => exact (if_neg hi).symm

/-- Settles O54: `allZero_syndromes_iff_dvd` on the word SYN reads. -/
theorem syndromesVanishExactlyOnMultiples : Obligations.SyndromesVanishExactlyOnMultiples := by
  intro s t d a b h hcv hb hx
  obtain ⟨t', hx', -, ht⟩ := syn_outcome h hcv d a hb
  cases hx'.symm.trans hx
  obtain ⟨g, hC⟩ := exists_generatedBy h hcv
  obtain ⟨f, hf, -⟩ := exists_bitVector_eq_poly s.code.nNat (s.readP a)
  have hf' : bitVector s.code.n.toNat (s.readP a) = gf2Rep.poly f := hf
  rw [ht, coef_syndromes_eq_zero_iff, hf, allZero_syndromes_iff_dvd h hcv hC, hf', hC.gen_eq]
  exact (gf2Rep.divides_iff (gf2Rep.trim_poly g) f).symm

end Sys2Proof.Machine
end

section
/-! CHIEN and CORR (44_codec.md R212, R215–R217). -/

namespace Sys2Proof.Machine

open Sys2Proof.Spec Polynomial

/-! ### Commits with flags -/

@[simp] theorem readP_complete (s : State) (i : PReg) : s.complete.readP i = s.readP i := rfl
@[simp] theorem readR_complete (s : State) (i : RReg) : s.complete.readR i = s.readR i := rfl
@[simp] theorem readP_writeR (s : State) (c : RReg) (v : Word) (i : PReg) : (s.writeR c v).readP i = s.readP i := rfl
@[simp] theorem readR_writeP (s : State) (d : PReg) (P : Poly) (i : RReg) : (s.writeP d P).readR i = s.readR i := rfl
@[simp] theorem readP_writeF (s : State) (b : Bool) (i : PReg) : (s.writeF b).readP i = s.readP i := rfl
@[simp] theorem readR_writeF (s : State) (b : Bool) (i : RReg) : (s.writeF b).readR i = s.readR i := rfl
@[simp] theorem readP_writeOutcome (s : State) (o : DecodeStatus) (i : PReg) :
    (s.writeOutcome o).readP i = s.readP i := rfl

theorem storePoly_nil (c : Params) : storePoly c [] = [] := by
  obtain ⟨htrim, hlen, hfit⟩ := polyFits_nil c
  exact storePoly_of_fits htrim hlen hfit

section
variable {s : State} {x : Result} {d c : PReg} {P Q : Poly} {b : Bool}

theorem wrotePRF_of_finish {r : RReg} {v : Word} (hx : x = finish (((s.writeP d P).writeR r v).writeF b))
    (hP : storePoly s.cfg P = P) :
    ∃ t, x = .next t ∧ WrotePRF s t d r ∧ t.readP d = P ∧ t.readR r = v ∧ t.f = b :=
  ⟨_, hx, ⟨rfl, fun i hi => by simp [hi], fun i hi => by simp [hi]⟩, by simp [hP], by simp, rfl⟩

theorem wrotePPF_of_finish (hdc : d ≠ c) (hx : x = finish (((s.writeP d P).writeP c Q).writeF b))
    (hP : storePoly s.cfg P = P) (hQ : storePoly s.cfg Q = Q) :
    ∃ t, x = .next t ∧ WrotePPF s t d c ∧ t.readP d = P ∧ t.readP c = Q ∧ t.f = b :=
  ⟨_, hx, ⟨rfl, fun i hid hic => by simp [hid, hic]⟩, by simp [hdc, hP], by simp [hQ], rfl⟩

theorem wrotePPFDst_of_finish {o : DecodeStatus} (hdc : d ≠ c)
    (hx : x = finish (((s.writeP d P).writeP c Q).writeOutcome o)) (hP : storePoly s.cfg P = P)
    (hQ : storePoly s.cfg Q = Q) : ∃ t, x = .next t ∧ WrotePPFDst s t d c ∧ t.readP d = P ∧ t.readP c = Q ∧
      t.dst = o.code ∧ t.f = (o == .uncorrectable) :=
  ⟨_, hx, ⟨rfl, fun i hid hic => by simp [hid, hic]⟩, by simp [hdc, hP], by simp [hQ], rfl, rfl⟩

end

/-! ### CHIEN -/

/-- The mask marks positions below n (44_codec.md R212). -/
theorem exists_chienMask_eq_poly (F : FieldState) (n : Nat) (Λ : Poly) :
    ∃ e : (ZMod 2)[X], chienMask F n Λ = gf2Rep.poly e ∧ e.degree < n :=
  gf2Rep.exists_tabulate_eq_poly fun j _ => by split <;> decide

theorem coef_chienMask (F : FieldState) (n : Nat) (Λ : Poly) (i : Nat) :
    Poly.coef (chienMask F n Λ) i = if i < n ∧ isRoot F Λ i = true then 1 else 0 := by
  rw [chienMask, coef_tabulate, ite_and]

theorem chien_outcome {s : State} (h : s.Inv) (hcv : s.code.cv = true) (d : PReg) (c : RReg) (a : PReg) :
    ∃ t, exec (.chien d c a) s = .next t ∧ WrotePRF s t d c ∧
      t.readP d = chienMask s.field s.code.nNat (s.projm a) ∧
      t.readR c = BitVec.ofNat 32 (chienCount s.field s.code.nNat (s.projm a)) ∧
      t.f = chienFail s.field s.code.nNat (s.projm a) := by
  obtain ⟨e, he, hdeg⟩ := exists_chienMask_eq_poly s.field s.code.nNat (s.projm a)
  exact wrotePRF_of_finish (if_pos hcv) (he ▸ storePoly_of_degree_lt h hcv hdeg)

/-- The count is at most n, so the register shows it whole. -/
theorem toNat_chienCount (F : FieldState) (n : Word) (Λ : Poly) :
    (BitVec.ofNat 32 (chienCount F n.toNat Λ)).toNat = chienCount F n.toNat Λ := by
  have hle : chienCount F n.toNat Λ ≤ n.toNat := List.countP_le_length.trans_eq List.length_range
  rw [BitVec.toNat_ofNat, Nat.mod_eq_of_lt (hle.trans_lt n.isLt)]

/-- Settles O57: the mask and the count are written whole. -/
theorem chienMarksTheRoots : Obligations.ChienMarksTheRoots := by
  intro s d c a h hcv Λ root
  obtain ⟨t, hx, hw, htd, htc, htf⟩ := chien_outcome h hcv d c a
  have hroot : isRoot s.field Λ = root := funext fun i => rfl
  have hcount : (t.readR c).toNat = chienCount s.field s.code.n.toNat Λ :=
    htc ▸ toNat_chienCount s.field s.code.n Λ
  refine ⟨t, hx, hw, fun i => ?_, ?_, ?_⟩
  · rw [htd, coef_chienMask, ← hroot]
    rfl
  · rw [hcount, chienCount, List.countP_eq_length_filter, hroot]
  · rw [htf, hcount]
    exact bne_iff_ne

/-! ### CORR -/

/-- CORR's flipped word (44_codec.md R215). -/
def State.flipped (s : State) (a b : PReg) : Poly :=
  Poly.add (bitVector s.code.nNat (s.readP a)) (bitVector s.code.nNat (s.readP b))

theorem coef_flipped (s : State) (a b : PReg) (j : Nat) : Poly.coef (s.flipped a b) j =
    if j < s.code.n.toNat then lowBits 1 (Poly.coef (s.readP a) j) ^^^ lowBits 1 (Poly.coef (s.readP b) j) else 0 := by
  rw [State.flipped, coef_add, coef_bitVector, coef_bitVector, CodeState.nNat]
  split
  · rfl
  · exact BitVec.xor_self

theorem exists_flipped_eq_poly (s : State) (a b : PReg) :
    ∃ w : (ZMod 2)[X], s.flipped a b = gf2Rep.poly w ∧ w.degree < s.code.nNat := by
  obtain ⟨f, hf, hfn⟩ := exists_bitVector_eq_poly s.code.nNat (s.readP a)
  obtain ⟨e, he, hen⟩ := exists_bitVector_eq_poly s.code.nNat (s.readP b)
  exact ⟨f + e, by rw [State.flipped, hf, he, gf2Rep.add_poly], (degree_add_le f e).trans_lt (max_lt hfn hen)⟩

section
variable {s : State} (h : s.Inv) (hcv : s.code.cv = true)
include h hcv

/-- A recovered message is stored whole. -/
theorem storePoly_recoverMsg (w : (ZMod 2)[X]) : storePoly s.cfg (recoverMsg s.code (gf2Rep.poly w)).1 =
    (recoverMsg s.code (gf2Rep.poly w)).1 := by
  obtain ⟨g, hC⟩ := exists_generatedBy h hcv
  obtain ⟨m, hm, hmk⟩ := exists_recoverMsg_eq_poly hC w
  exact hm ▸ storePoly_of_degree_lt h hcv (hmk.trans_le (Nat.cast_le.mpr hC.kNat_le))

theorem corr_outcome {d c : PReg} (hdc : d ≠ c) (a b : PReg) :
    ∃ t, exec (.corr d c a b) s = .next t ∧ WrotePPF s t d c ∧
      let r := recoverMsg s.code (s.flipped a b)
      (r.2 = true ∧ t.f = false ∧ t.readP d = s.flipped a b ∧ t.readP c = r.1) ∨
      (r.2 = false ∧ t.f = true ∧ t.readP d = [] ∧ t.readP c = []) := by
  obtain ⟨w, hw, hwn⟩ := exists_flipped_eq_poly s a b
  have hx : exec (.corr d c a b) s = if (recoverMsg s.code (s.flipped a b)).2 then
        finish (((s.writeP d (s.flipped a b)).writeP c (recoverMsg s.code (s.flipped a b)).1).writeF false)
      else finish (((s.writeP d []).writeP c []).writeF true) := (if_neg hdc).trans (if_pos hcv)
  cases hr : (recoverMsg s.code (s.flipped a b)).2 with
  | true =>
    obtain ⟨t, hx, hwrote, htd, htc, htf⟩ := wrotePPF_of_finish hdc (hx.trans (if_pos hr))
      (hw ▸ storePoly_of_degree_lt h hcv hwn) (hw ▸ storePoly_recoverMsg h hcv w)
    exact ⟨t, hx, hwrote, .inl ⟨hr, htf, htd, htc⟩⟩
  | false =>
    obtain ⟨t, hx, hwrote, htd, htc, htf⟩ := wrotePPF_of_finish hdc
      (hx.trans (if_neg (Bool.eq_false_iff.mp hr))) (storePoly_nil s.cfg) (storePoly_nil s.cfg)
    exact ⟨t, hx, hwrote, .inr ⟨hr, htf, htd, htc⟩⟩

end

/-- Settles O58: the checks pass exactly where some k-bit message encodes to the flipped word. -/
theorem corrEmitsOnlyCheckedMessages : Obligations.CorrEmitsOnlyCheckedMessages := by
  intro s d c a b h hcv hdc flipped
  obtain ⟨g, hC⟩ := exists_generatedBy h hcv
  obtain ⟨w, hw, -⟩ := exists_flipped_eq_poly s a b
  have hcoef : ∀ j, Poly.coef (gf2Rep.poly w) j = flipped j := hw ▸ coef_flipped s a b
  have hcheck : (recoverMsg s.code (gf2Rep.poly w)).2 = true ↔ ∃ msg : Poly, Coefs 1 msg ∧
      Poly.deg msg < s.code.k.toNat ∧ ∀ j, Poly.coef (encodeMsg s.code msg) j = flipped j := by
    rw [recoverMsg_snd_iff hC]
    refine ⟨fun ⟨m, hm, hmw⟩ => ⟨gf2Rep.poly m, gf2Rep.coefs_poly m, gf2Rep.deg_poly_lt_natCast_iff.mpr hm, ?_⟩,
      fun ⟨msg, hbits, hdeg, henc⟩ => ?_⟩
    · rwa [encodeMsg_poly hC, hmw]
    · obtain ⟨m, hm⟩ := gf2Rep.exists_trim_eq_poly hbits
      rw [Poly.deg, ← trim_trim, hm, ← Poly.deg] at hdeg
      refine ⟨m, gf2Rep.deg_poly_lt_natCast_iff.mp hdeg, gf2Rep.poly_injective ?_⟩
      rw [← encodeMsg_trim, hm, encodeMsg_poly hC] at henc
      exact eq_of_coef (gf2Rep.trim_poly _) (gf2Rep.trim_poly w) fun j => (henc j).trans (hcoef j).symm
  obtain ⟨t, hx, hwrote, hcase⟩ := corr_outcome h hcv hdc a b
  rw [hw] at hcase
  refine ⟨t, hx, hwrote, ?_⟩
  rw [← hcheck]
  obtain ⟨hr, htf, htd, htc⟩ | ⟨hr, htf, htd, htc⟩ := hcase
  · obtain ⟨m, hm, hmk⟩ := exists_recoverMsg_eq_poly hC w
    refine ⟨.inl ⟨htf, ?_, ?_, ?_, ?_⟩, iff_of_true htf hr⟩
    · rw [htd, htc, encodeMsg_recoverMsg hr]
    · exact htc ▸ hm ▸ gf2Rep.deg_poly_lt_natCast_iff.mpr hmk
    · exact htc ▸ hm ▸ gf2Rep.coefs_poly m
    · exact htd ▸ hcoef
  · exact ⟨.inr ⟨htf, htd, htc⟩, iff_of_false (by simp [htf]) (by simp [hr])⟩

end Sys2Proof.Machine
end

section
/-! Gauss–Jordan elimination over the built field keeps the linear relations between the columns of a matrix, so it
solves a nonsingular system and finds out a singular one (44_codec.md R210). -/

namespace Sys2Proof.Machine

open Sys2Proof.Spec

section
variable {K : Type} [Field K]

/-! ### Relations between the columns -/

/-- The entries `v 0 … v μ` are a linear relation between the μ + 1 columns of the μ rows of `m`. -/
def IsRelation (μ : Nat) (m : Nat → Nat → K) (v : Nat → K) : Prop :=
  ∀ i, i < μ → ∑ j ∈ Finset.range (μ + 1), m i j * v j = 0

/-- The relations of `m` are the multiples of one: the system has the one solution `y`, and no other for a zero right
side. -/
def SolvedBy (μ : Nat) (m : Nat → Nat → K) (y : Nat → K) : Prop :=
  ∀ v, IsRelation μ m v ↔ ∀ i, i < μ → v i = y i * v μ

/-- The first μ columns have a relation that is not 0. -/
def Degenerate (μ : Nat) (m : Nat → Nat → K) : Prop := ∃ v, IsRelation μ m v ∧ v μ = 0 ∧ ∃ j, j < μ ∧ v j ≠ 0

theorem not_degenerate_of_solvedBy {μ : Nat} {m : Nat → Nat → K} {y : Nat → K} (h : SolvedBy μ m y) :
    ¬ Degenerate μ m := fun ⟨v, hv, hlast, j, hj, hne⟩ =>
  hne (((h v).mp hv j hj).trans (by rw [hlast, mul_zero]))

/-- The first `k` columns are those of the unit matrix. -/
def Reduced (μ k : Nat) (m : Nat → Nat → K) : Prop :=
  ∀ i, i < μ → ∀ j, j < k → m i j = if i = j then 1 else 0

/-- Rows `k` and `piv` exchanged. -/
def swapRows (m : Nat → Nat → K) (k piv i : Nat) : Nat → K := m (Equiv.swap k piv i)

/-- Row `k` scaled to a 1 in column `k`, and the column's other entries eliminated. -/
def eliminated (m : Nat → Nat → K) (k i j : Nat) : K :=
  if i = k then (m k k)⁻¹ * m k j else m i j + m i k * ((m k k)⁻¹ * m k j)

/-- The relation that makes column `k` a combination of the columns before it. -/
def columnRelation (m : Nat → Nat → K) (k j : Nat) : K := if j < k then m j k else if j = k then 1 else 0

section
variable {μ k : Nat} {m : Nat → Nat → K}

theorem sum_mul_of_reduced (h : Reduced μ k m) {i : Nat} (hi : i < μ) (w : Nat → K) :
    ∑ j ∈ Finset.range k, m i j * w j = if i < k then w i else 0 := by
  calc ∑ j ∈ Finset.range k, m i j * w j
    _ = ∑ j ∈ Finset.range k, if i = j then w j else 0 := Finset.sum_congr rfl fun j hj => by
      rw [h i hi j (Finset.mem_range.mp hj), ite_mul, one_mul, zero_mul]
    _ = if i < k then w i else 0 := by simp only [Finset.sum_ite_eq, Finset.mem_range]

/-- Once all μ columns are reduced the last one is the solution, the only one for each last entry. -/
theorem solvedBy_of_reduced [CharP K 2] (h : Reduced μ μ m) : SolvedBy μ m fun i => m i μ := by
  refine fun v => forall₂_congr fun i hi => ?_
  rw [Finset.sum_range_succ, sum_mul_of_reduced h hi, if_pos hi, ← CharTwo.sub_eq_add, sub_eq_zero]

/-- A column with no pivot shows that the matrix is singular. -/
theorem relation_columnRelation [CharP K 2] (hk : k < μ) (h : Reduced μ k m)
    (hzero : ∀ i, i < μ → k ≤ i → m i k = 0) : IsRelation μ m (columnRelation m k) := by
  intro i hi
  have hright : ∀ j ≥ k + 1, m i j * columnRelation m k j = 0 := fun j hj => by
    rw [columnRelation, if_neg (by omega), if_neg (by omega), mul_zero]
  have hleft : (if i < k then columnRelation m k i else 0) = m i k := by
    split
    next hik => rw [columnRelation, if_pos hik]
    next hik => exact (hzero i hi (Nat.not_lt.mp hik)).symm
  have hself : columnRelation m k k = 1 := by simp [columnRelation]
  rw [Finset.eventually_constant_sum hright (by omega), Finset.sum_range_succ, sum_mul_of_reduced h hi, hleft, hself,
    mul_one, CharTwo.add_self_eq_zero]

/-! ### One turn of the loop -/

variable (hk : k < μ)
include hk

section
variable {piv : Nat} (hpiv : piv < μ)
include hpiv

omit m in
theorem swap_lt {i : Nat} (hi : i < μ) : Equiv.swap k piv i < μ := by
  rw [Equiv.swap_apply_def]
  split_ifs <;> assumption

theorem relation_swapRows_iff {v : Nat → K} : IsRelation μ (swapRows m k piv) v ↔ IsRelation μ m v := by
  refine ⟨fun h i hi => ?_, fun h i hi => h _ (swap_lt hk hpiv hi)⟩
  have hswap := h _ (swap_lt hk hpiv hi)
  rwa [swapRows, Equiv.swap_apply_self] at hswap

theorem reduced_swapRows (hle : k ≤ piv) (h : Reduced μ k m) : Reduced μ k (swapRows m k piv) := by
  intro i hi j hj
  rw [swapRows, h _ (swap_lt hk hpiv hi) j hj]
  refine if_congr ?_ rfl rfl
  rw [Equiv.swap_apply_def]
  split_ifs <;> omega

end

variable (hne : m k k ≠ 0)
include hne

/-- The row operations can be undone. -/
theorem relation_eliminated_iff {v : Nat → K} : IsRelation μ (eliminated m k) v ↔ IsRelation μ m v := by
  have hrow (i : Nat) : ∑ j ∈ Finset.range (μ + 1), eliminated m k i j * v j =
      if i = k then (m k k)⁻¹ * ∑ j ∈ Finset.range (μ + 1), m k j * v j
      else ∑ j ∈ Finset.range (μ + 1), m i j * v j +
        m i k * ((m k k)⁻¹ * ∑ j ∈ Finset.range (μ + 1), m k j * v j) := by
    simp only [eliminated]
    split
    · simp only [Finset.mul_sum, mul_assoc]
    · simp only [Finset.mul_sum, ← Finset.sum_add_distrib, mul_assoc, add_mul]
  simp only [IsRelation, hrow]
  refine ⟨fun h i hi => ?_, fun h i hi => by simp [h i hi, h k hk]⟩
  have hpivot : ∑ j ∈ Finset.range (μ + 1), m k j * v j = 0 := by simpa [hne] using h k hk
  by_cases hik : i = k
  · rw [hik, hpivot]
  · simpa [hik, hpivot] using h i hi

theorem reduced_eliminated [CharP K 2] (h : Reduced μ k m) : Reduced μ (k + 1) (eliminated m k) := by
  intro i hi j hj
  rcases (Nat.le_of_lt_succ hj).eq_or_lt with rfl | hlt
  · rw [eliminated, inv_mul_cancel₀ hne, mul_one, CharTwo.add_self_eq_zero]
  · have hpivot : m k j = 0 := (h k hk j hlt).trans (if_neg hlt.ne')
    rw [eliminated, hpivot, mul_zero, mul_zero, add_zero, h i hi j hlt, ite_eq_right_iff]
    intro hik
    rw [if_neg (hik ▸ hlt.ne')]

end

end

/-! ### The model's matrices -/

namespace Arith.FieldRep

variable {A : Arith} {n : Nat} {K : Type} [Field K] (ρ : A.FieldRep n K)

/-- The list of `len` entries of `r`. -/
def row (len : Nat) (r : Nat → K) : List Elem := (List.range len).map fun j => ρ.bits (r j)

/-- The augmented μ × (μ + 1) matrix of the entries `m`. -/
def matrix (μ : Nat) (m : Nat → Nat → K) : List (List Elem) := (List.range μ).map fun i => ρ.row (μ + 1) (m i)

theorem getD_row {len j : Nat} (hj : j < len) (r : Nat → K) : (ρ.row len r).getD j 0 = ρ.bits (r j) := by
  simp [row, List.getD, hj]

variable {μ : Nat} (m : Nat → Nat → K)

@[simp] theorem length_matrix : (ρ.matrix μ m).length = μ := by simp [matrix]

theorem matRow_matrix {i : Nat} (hi : i < μ) : matRow (ρ.matrix μ m) i = ρ.row (μ + 1) (m i) := by
  simp [matRow, matrix, List.getD, hi]

theorem matEntry_matrix {i j : Nat} (hi : i < μ) (hj : j ≤ μ) : matEntry (ρ.matrix μ m) i j = ρ.bits (m i j) := by
  rw [matEntry, ρ.matRow_matrix m hi, ρ.getD_row (Nat.lt_succ_of_le hj)]

theorem set_set_matrix {k piv : Nat} (hk : k < μ) (hpiv : piv < μ) :
    ((ρ.matrix μ m).set piv (matRow (ρ.matrix μ m) k)).set k (matRow (ρ.matrix μ m) piv) =
      ρ.matrix μ (swapRows m k piv) := by
  rw [ρ.matRow_matrix m hk, ρ.matRow_matrix m hpiv]
  refine List.ext_getElem (by simp) fun i hi _ => ?_
  simp only [List.getElem_set, matrix, List.getElem_map, List.getElem_range, swapRows, Equiv.swap_apply_def]
  simp only [eq_comm (b := i)]
  split_ifs <;> rfl

end Arith.FieldRep

section
variable {F : FieldState} {n : Nat} {K : Type} [Field K] (ρ : F.arith.FieldRep n K) {μ k : Nat} {m : Nat → Nat → K}

theorem map_mul_row (x : K) (len : Nat) (r : Nat → K) :
    (ρ.row len r).map (F.mul (ρ.bits x)) = ρ.row len fun j => x * r j := by
  rw [Arith.FieldRep.row, List.map_map]
  exact List.map_congr_left fun j _ => (ρ.bits_mul x (r j)).symm

/-- Adding a multiple of the pivot row also where the multiple is 0 changes nothing. -/
theorem eliminateRow_row {len : Nat} (hk : k < len) (r p : Nat → K) :
    eliminateRow F (ρ.row len p) (ρ.row len r) k = ρ.row len fun j => r j + r k * p j := by
  rw [eliminateRow, ρ.getD_row hk]
  split
  next h0 => simp [ρ.bits_eq_zero_iff.mp h0]
  next =>
    simp only [Arith.FieldRep.row, List.zipWith_map, List.zipWith_self, ρ.bits_add, ρ.bits_mul]
    rfl

/-- The pivot is a row from `k` on with an entry that is not 0, if there is one. -/
theorem findPivot_matrix (hk : k < μ) :
    (∃ piv, findPivot (ρ.matrix μ m) k = some piv ∧ piv < μ ∧ k ≤ piv ∧ m piv k ≠ 0) ∨
    (findPivot (ρ.matrix μ m) k = none ∧ ∀ i, i < μ → k ≤ i → m i k = 0) := by
  have hentry {i : Nat} (hi : i < μ) : (decide (k ≤ i) && matEntry (ρ.matrix μ m) i k != 0) = true ↔
      k ≤ i ∧ m i k ≠ 0 := by
    rw [ρ.matEntry_matrix m hi hk.le, Bool.and_eq_true, decide_eq_true_iff, bne_iff_ne]
    exact and_congr_right fun _ => not_congr ρ.bits_eq_zero_iff
  cases hfind : findPivot (ρ.matrix μ m) k with
  | some piv =>
    have hpiv : piv < μ := by simpa using List.mem_of_find?_eq_some hfind
    have hentry_piv := List.find?_some hfind
    exact .inl ⟨piv, rfl, hpiv, (hentry hpiv).mp hentry_piv⟩
  | none =>
    refine .inr ⟨rfl, fun i hi hki => by_contra fun hne => ?_⟩
    exact List.find?_eq_none.mp hfind i (by simpa using hi) ((hentry hi).mpr ⟨hki, hne⟩)

theorem gaussColumn_of_pivot {piv : Nat} (hk : k < μ) (hpiv : piv < μ) (hne : m piv k ≠ 0)
    (hfind : findPivot (ρ.matrix μ m) k = some piv) :
    gaussColumn F (ρ.matrix μ m) k = some (ρ.matrix μ (eliminated (swapRows m k piv) k)) := by
  have hdiag : swapRows m k piv k k ≠ 0 := by rwa [swapRows, Equiv.swap_apply_left]
  have hinv : F.inv (ρ.bits (swapRows m k piv k k)) = ρ.bits (swapRows m k piv k k)⁻¹ := (ρ.bits_inv _ hdiag).symm
  rw [gaussColumn, hfind]
  dsimp only
  rw [ρ.set_set_matrix m hk hpiv, ρ.matRow_matrix _ hk, ρ.matEntry_matrix _ hk hk.le, hinv, map_mul_row,
    ρ.length_matrix]
  refine congrArg some (List.map_congr_left fun i hi => ?_)
  rw [ρ.matRow_matrix _ (List.mem_range.mp hi), eliminateRow_row ρ (hk.trans μ.lt_succ_self)]
  split
  next hik => exact congrArg (ρ.row (μ + 1)) (funext fun j => (if_pos hik).symm)
  next hik => exact congrArg (ρ.row (μ + 1)) (funext fun j => (if_neg hik).symm)

/-! ### The solver -/

/-- After `k` columns the loop holds a reduced matrix with the same relations, or the matrix is singular. -/
theorem foldlM_gaussColumn [CharP K 2] (hk : k ≤ μ) :
    (∃ m', (List.range k).foldlM (gaussColumn F) (ρ.matrix μ m) = some (ρ.matrix μ m') ∧ Reduced μ k m' ∧
      ∀ v, IsRelation μ m' v ↔ IsRelation μ m v) ∨
    ((List.range k).foldlM (gaussColumn F) (ρ.matrix μ m) = none ∧ Degenerate μ m) := by
  induction k with
  | zero => exact .inl ⟨m, rfl, fun _ _ _ hj => absurd hj (Nat.not_lt_zero _), fun _ => Iff.rfl⟩
  | succ k ih =>
    obtain ⟨m', hfold, hred, hrel⟩ | ⟨hfold, hsing⟩ := ih (Nat.le_of_succ_le hk)
    · have hturn : (List.range (k + 1)).foldlM (gaussColumn F) (ρ.matrix μ m) = gaussColumn F (ρ.matrix μ m') k := by
        rw [List.range_succ, List.foldlM_append, hfold]
        exact bind_pure (m := Option) _
      obtain ⟨piv, hfind, hpiv, hle, hne⟩ | ⟨hfind, hzero⟩ := findPivot_matrix ρ (m := m') hk
      · have hdiag : swapRows m' k piv k k ≠ 0 := by rwa [swapRows, Equiv.swap_apply_left]
        refine .inl ⟨_, hturn.trans (gaussColumn_of_pivot ρ hk hpiv hne hfind),
          reduced_eliminated hk hdiag (reduced_swapRows hk hpiv hle hred), fun v => ?_⟩
        rw [relation_eliminated_iff hk hdiag, relation_swapRows_iff hk hpiv, hrel]
      · have hnone : gaussColumn F (ρ.matrix μ m') k = none := by rw [gaussColumn, hfind]
        refine .inr ⟨hturn.trans hnone, columnRelation m' k, (hrel _).mp (relation_columnRelation hk hred hzero), ?_, k,
          hk, ?_⟩
        · rw [columnRelation, if_neg (by omega), if_neg (by omega)]
        · simp [columnRelation]
    · exact .inr ⟨by rw [List.range_succ, List.foldlM_append, hfold]; rfl, hsing⟩

theorem gaussSolve_matrix [CharP K 2] (m : Nat → Nat → K) :
    (∃ y : Nat → K, gaussSolve F μ (ρ.matrix μ m) = some (ρ.row μ y) ∧ SolvedBy μ m y) ∨
    (gaussSolve F μ (ρ.matrix μ m) = none ∧ Degenerate μ m) := by
  obtain ⟨m', hfold, hred, hrel⟩ | ⟨hfold, hsing⟩ := foldlM_gaussColumn ρ (m := m) le_rfl
  · refine .inl ⟨fun i => m' i μ, ?_, fun v => (hrel v).symm.trans (solvedBy_of_reduced hred v)⟩
    rw [gaussSolve, hfold, Option.map_some, Arith.FieldRep.matrix, List.map_map]
    exact congrArg some (List.map_congr_left fun i _ => ρ.getD_row μ.lt_succ_self _)
  · exact .inr ⟨by rw [gaussSolve, hfold, Option.map_none], hsing⟩

end

end Sys2Proof.Machine
end

section
/-! PGZ: the accepted locator is the only solution of the Newton identities of the largest nonsingular system
(44_codec.md R208–R210). -/

namespace Sys2Proof.Machine

open Sys2Proof.Spec Polynomial

/-! ### The system of a trial count -/

/-- The Newton identities that tie a locator's coefficients to the syndromes (44_codec.md R209). -/
def MeetsNewton (F : FieldState) (S Λ : Nat → Elem) (μ : Nat) : Prop :=
  ∀ row, 1 ≤ row → row ≤ μ → S (μ + row) = xorSum μ fun j => F.mul (Λ (j + 1)) (S (μ + row - (j + 1)))

/-- The systems from size `lo` to size `t` are singular (44_codec.md R208). -/
def SingularFrom (F : FieldState) (S : Nat → Elem) (lo t : Nat) : Prop :=
  ∀ ν, lo ≤ ν → ν ≤ t → Singular F S ν

theorem xorSum_congr {n : Nat} {g g' : Nat → Elem} (h : ∀ i, i < n → g i = g' i) : xorSum n g = xorSum n g' := by
  induction n with
  | zero => rfl
  | succ n ih => rw [xorSum_succ, xorSum_succ, ih fun i hi => h i (Nat.lt_succ_of_lt hi), h n n.lt_succ_self]

section
variable {K : Type} [Field K]

/-- Entry (row, col) of [M_μ | b_μ], rows and columns from 0; the last column is of the same form (44_codec.md R209). -/
def hankel (σ : Nat → K) (row col : Nat) : K := σ (row + col + 1)

theorem isRelation_hankel_iff [CharP K 2] {μ : Nat} {σ v : Nat → K} : IsRelation μ (hankel σ) v ↔
    ∀ row, row < μ → ∑ col ∈ Finset.range μ, σ (row + col + 1) * v col = σ (row + μ + 1) * v μ := by
  refine forall₂_congr fun row _ => ?_
  rw [Finset.sum_range_succ, ← CharTwo.sub_eq_add, sub_eq_zero]
  rfl

variable {F : FieldState} (ρ : F.arith.FieldRep F.deg K) {μ : Nat}

theorem pgzMatrix_poly (f : K[X]) (μ : Nat) : pgzMatrix (ρ.poly f) μ = ρ.matrix μ (hankel f.coeff) := by
  refine List.map_congr_left fun row _ => List.map_congr_left fun col hcol => ?_
  rw [ρ.coef_poly, ρ.coef_poly, hankel]
  split
  · rfl
  · have hlast : col = μ := by
      have := List.mem_range.mp hcol
      omega
    rw [hlast, Nat.add_comm row]

/-- A vector of field elements, with a last entry. -/
theorem exists_bits_vector {x : Nat → Elem} (hx : ∀ j, j < μ → (x j).toNat < 2 ^ F.deg) (z : K) :
    ∃ v : Nat → K, (∀ j, j < μ → ρ.bits (v j) = x j) ∧ v μ = z := by
  choose! y hy using fun j hj => ρ.exists_bits (x j) (hx j hj)
  refine ⟨Function.update y μ z, fun j hj => ?_, Function.update_self ..⟩
  rw [Function.update_of_ne hj.ne, hy j hj]

theorem xorSum_mul_bits {σ v : Nat → K} {S x : Nat → Elem} (hS : ∀ j, j < μ → S j = ρ.bits (σ j))
    (hx : ∀ j, j < μ → x j = ρ.bits (v j)) :
    xorSum μ (fun j => F.mul (S j) (x j)) = ρ.bits (∑ j ∈ Finset.range μ, σ j * v j) := by
  rw [ρ.bits_sum]
  refine xorSum_congr fun j hj => ?_
  rw [hS j hj, hx j hj, ρ.bits_mul]
  rfl

/-! ### The locator -/

theorem coef_locatorOf_zero (x : List Elem) : Poly.coef (locatorOf x) 0 = 1 := by
  rw [locatorOf, coef_trim]
  rfl

theorem coef_locatorOf_row (y : Nat → K) {j : Nat} (hj : j < μ) :
    Poly.coef (locatorOf (ρ.row μ y)) (μ - j) = ρ.bits (y j) := by
  have hlen : (ρ.row μ y).length = μ := by simp [Arith.FieldRep.row]
  have hpos : μ - j = μ - 1 - j + 1 := by omega
  rw [locatorOf, coef_trim, hpos, coef_cons_succ, Poly.coef, List.getD_reverse _ (by omega), hlen, ← ρ.getD_row hj y]
  congr 1
  omega

theorem exists_locatorOf_eq_poly (y : Nat → K) :
    ∃ Λ : K[X], locatorOf (ρ.row μ y) = ρ.poly Λ ∧ Λ.degree < (μ + 1 : Nat) := by
  have hcoefs : Coefs F.deg (1 :: (ρ.row μ y).reverse) := by
    have hone : (1#16).toNat < 2 ^ F.deg := ρ.bits_one ▸ ρ.bits_lt 1
    refine List.forall_mem_cons.mpr ⟨hone, fun x hx => ?_⟩
    obtain ⟨j, -, rfl⟩ := List.mem_map.mp (List.mem_reverse.mp hx)
    exact ρ.bits_lt _
  obtain ⟨Λ, hΛ⟩ := ρ.exists_trim_eq_poly hcoefs
  refine ⟨Λ, hΛ, ρ.length_poly_le_iff.mp (hΛ ▸ (trim_length_le _).trans ?_)⟩
  simp [Arith.FieldRep.row]

/-! ### What the system says -/

variable [CharP K 2] (f : K[X])

/-- M_μ is singular where the μ columns of unknowns have a relation (44_codec.md R210). -/
theorem singular_iff : Singular F (Poly.coef (ρ.poly f)) μ ↔ Degenerate μ (hankel f.coeff) := by
  refine ⟨fun ⟨x, ⟨j, hj, hne⟩, hx, hrows⟩ => ?_, fun ⟨v, hv, hlast, j, hj, hne⟩ => ?_⟩
  · obtain ⟨v, hvx, hlast⟩ := exists_bits_vector ρ hx 0
    refine ⟨v, isRelation_hankel_iff.mpr fun row hrow => ?_, hlast, j, hj, fun h0 => hne ?_⟩
    · rw [hlast, mul_zero, ← ρ.bits_eq_zero_iff,
        ← xorSum_mul_bits ρ (fun col _ => ρ.coef_poly f (row + col + 1)) fun col hcol => (hvx col hcol).symm]
      exact hrows row hrow
    · rw [← hvx j hj, h0, ρ.bits_zero]
      rfl
  · refine ⟨fun col => ρ.bits (v col), ⟨j, hj, mt ρ.bits_eq_zero_iff.mp hne⟩, fun col _ => ρ.bits_lt _,
      fun row hrow => ?_⟩
    rw [xorSum_mul_bits ρ (fun col _ => ρ.coef_poly f (row + col + 1)) fun _ _ => rfl,
      isRelation_hankel_iff.mp hv row hrow, hlast, mul_zero, ρ.bits_zero]
    rfl

/-- The vector (Λ_μ, …, Λ_1, 1) is a relation exactly where Λ meets the Newton identities (44_codec.md R209). -/
theorem meetsNewton_iff_isRelation {Λ : Nat → Elem} {v : Nat → K}
    (hv : ∀ j, j < μ → ρ.bits (v j) = Λ (μ - j)) (hlast : v μ = 1) :
    MeetsNewton F (Poly.coef (ρ.poly f)) Λ μ ↔ IsRelation μ (hankel f.coeff) v := by
  have hsum (row : Nat) :
      xorSum μ (fun j => F.mul (Λ (j + 1)) (Poly.coef (ρ.poly f) (μ + (row + 1) - (j + 1)))) =
        ρ.bits (∑ col ∈ Finset.range μ, f.coeff (row + col + 1) * v col) := by
    have hΛ (j : Nat) (hj : j < μ) : Λ (j + 1) = ρ.bits (v (μ - 1 - j)) := by
      rw [hv _ (by omega)]
      congr 1
      omega
    rw [xorSum_mul_bits ρ hΛ fun j _ => ρ.coef_poly f _, ← Finset.sum_range_reflect]
    refine congrArg ρ.bits (Finset.sum_congr rfl fun j hj => ?_)
    have hjμ := Finset.mem_range.mp hj
    have hback : μ - 1 - (μ - 1 - j) = j := by omega
    have hindex : μ + (row + 1) - (μ - 1 - j + 1) = row + j + 1 := by omega
    rw [hback, hindex, mul_comm]
  rw [isRelation_hankel_iff]
  refine ⟨fun h row hrow => ?_, fun h row h1 hrow => ?_⟩
  · have hrow := h (row + 1) row.succ_pos hrow
    rw [hsum, ρ.coef_poly] at hrow
    rw [← ρ.bits_injective hrow, hlast, mul_one, Nat.add_left_comm, Nat.add_assoc]
  · obtain ⟨row, rfl⟩ := Nat.exists_eq_succ_of_ne_zero (Nat.one_le_iff_ne_zero.mp h1)
    rw [Nat.succ_eq_add_one, hsum, h row hrow, hlast, mul_one, ρ.coef_poly, Nat.add_left_comm, Nat.add_assoc]

/-- A nonsingular system has one solution (44_codec.md R210). -/
theorem meetsNewton_iff_of_solvedBy {y : Nat → K} (hy : SolvedBy μ (hankel f.coeff) y) {Λ : Nat → Elem}
    (hΛ : ∀ j, 1 ≤ j → j ≤ μ → (Λ j).toNat < 2 ^ F.deg) :
    MeetsNewton F (Poly.coef (ρ.poly f)) Λ μ ↔ ∀ j, j < μ → Λ (μ - j) = ρ.bits (y j) := by
  have hbelow (j : Nat) (hj : j < μ) : (Λ (μ - j)).toNat < 2 ^ F.deg := hΛ (μ - j) (by omega) (Nat.sub_le ..)
  obtain ⟨v, hv, hlast⟩ := exists_bits_vector ρ hbelow 1
  rw [meetsNewton_iff_isRelation ρ f hv hlast, hy v]
  refine forall₂_congr fun j hj => ?_
  rw [hlast, mul_one, ← hv j hj, ρ.bits_injective.eq_iff]

/-! ### The search -/

theorem pgzSearch_cases (t : Nat) :
    (∃ μ y, 1 ≤ μ ∧ μ ≤ t ∧ pgzSearch F (ρ.poly f) t = some (locatorOf (ρ.row μ y), μ) ∧
      SolvedBy μ (hankel f.coeff) y ∧ SingularFrom F (Poly.coef (ρ.poly f)) (μ + 1) t) ∨
    (pgzSearch F (ρ.poly f) t = none ∧ SingularFrom F (Poly.coef (ρ.poly f)) 1 t) := by
  induction t with
  | zero => exact .inr ⟨rfl, fun ν h1 h0 => absurd (h1.trans h0) (by decide)⟩
  | succ t ih =>
    rw [pgzSearch, pgzMatrix_poly]
    obtain ⟨y, hsolve, hy⟩ | ⟨hsolve, hdeg⟩ := gaussSolve_matrix ρ (μ := t + 1) (hankel f.coeff)
    · refine .inl ⟨t + 1, y, t.succ_pos, le_rfl, by rw [hsolve], hy, fun ν hlt hle => ?_⟩
      exact absurd (hlt.trans hle) (Nat.not_succ_le_self _)
    · have hnext {ν : Nat} (hle : ν ≤ t + 1) (hlow : ν ≤ t → Singular F (Poly.coef (ρ.poly f)) ν) :
          Singular F (Poly.coef (ρ.poly f)) ν := by
        rcases hle.eq_or_lt with rfl | hlt
        · exact (singular_iff ρ f).mpr hdeg
        · exact hlow (Nat.le_of_lt_succ hlt)
      rw [hsolve]
      obtain ⟨μ, y, h1, ht, hsearch, hy, hlater⟩ | ⟨hsearch, hall⟩ := ih
      · exact .inl ⟨μ, y, h1, ht.trans t.le_succ, hsearch, hy, fun ν hlt hle => hnext hle (hlater ν hlt)⟩
      · exact .inr ⟨hsearch, fun ν h1 hle => hnext hle (hall ν h1)⟩

/-- The three outcomes of R208. -/
theorem pgzLocate_cases (t : Nat) :
    (∃ μ y, 1 ≤ μ ∧ μ ≤ t ∧ pgzLocate F t (ρ.poly f) = some (locatorOf (ρ.row μ y), μ) ∧
      SolvedBy μ (hankel f.coeff) y ∧ SingularFrom F (Poly.coef (ρ.poly f)) (μ + 1) t) ∨
    (pgzLocate F t (ρ.poly f) = some ([1], 0) ∧ allZero t (ρ.poly f) = true ∧
      SingularFrom F (Poly.coef (ρ.poly f)) 1 t) ∨
    (pgzLocate F t (ρ.poly f) = none ∧ allZero t (ρ.poly f) = false ∧
      SingularFrom F (Poly.coef (ρ.poly f)) 1 t) := by
  rw [pgzLocate]
  obtain ⟨μ, y, h1, ht, hsearch, hrest⟩ | ⟨hsearch, hall⟩ := pgzSearch_cases ρ f t
  · exact .inl ⟨μ, y, h1, ht, by rw [hsearch], hrest⟩
  · rw [hsearch]
    cases hz : allZero t (ρ.poly f) with
    | true => exact .inr (.inl ⟨rfl, rfl, hall⟩)
    | false => exact .inr (.inr ⟨rfl, rfl, hall⟩)

theorem exists_locator_eq_poly {t : Nat} {r : Poly × Nat} (hr : pgzLocate F t (ρ.poly f) = some r) :
    ∃ Λ : K[X], r.1 = ρ.poly Λ ∧ Λ.degree < (2 * t + 1 : Nat) := by
  obtain ⟨μ, y, -, ht, hl, -⟩ | ⟨hl, -⟩ | ⟨hl, -⟩ := pgzLocate_cases ρ f t
  · cases hl.symm.trans hr
    obtain ⟨Λ, hΛ, hdeg⟩ := exists_locatorOf_eq_poly ρ y
    exact ⟨Λ, hΛ, hdeg.trans_le (Nat.cast_le.mpr (by omega))⟩
  · cases hl.symm.trans hr
    exact ⟨1, ρ.poly_one.symm, degree_one.trans_lt (Nat.cast_pos.mpr (by omega))⟩
  · cases hl.symm.trans hr

end

/-! ### PGZ -/

section
variable {s : State} (h : s.Inv) (hcv : s.code.cv = true)
include h hcv

theorem exists_projm_eq_poly (a : PReg) : ∃ (K : Type) (_ : Field K) (ρ : s.field.arith.FieldRep s.field.deg K)
    (f : K[X]), s.projm a = ρ.poly f := by
  obtain ⟨K, _, ⟨ρ⟩⟩ := exists_fieldRep h.cfgValid (fieldBuilt_of_cv h hcv)
  obtain ⟨f, hf, -⟩ := ρ.exists_proj_eq_poly (h.polysFit a)
  exact ⟨K, _, ρ, f, hf⟩

/-- PGZ writes what it located. -/
theorem pgz_outcome_some (d : PReg) (c : RReg) {a : PReg} {r : Poly × Nat}
    (hr : pgzLocate s.field s.code.tNat (s.projm a) = some r) :
    ∃ u, exec (.pgz d c a) s = .next u ∧ WrotePRF s u d c ∧ u.readP d = r.1 ∧ u.readR c = BitVec.ofNat 32 r.2 ∧
      u.f = false := by
  obtain ⟨K, _, ρ, f, hf⟩ := exists_projm_eq_poly h hcv a
  have := ρ.charP_two
  obtain ⟨Λ, hΛ, hdeg⟩ := exists_locator_eq_poly ρ f (hf ▸ hr)
  refine wrotePRF_of_finish ?_ (hΛ ▸ storePoly_of_degree_le h hcv ρ hdeg)
  rw [exec, execPgz, needCode_of_cv hcv, hr]

omit h in
/-- The Inconclusive outputs. -/
theorem pgz_outcome_none (d : PReg) (c : RReg) {a : PReg} (hr : pgzLocate s.field s.code.tNat (s.projm a) = none) :
    ∃ u, exec (.pgz d c a) s = .next u ∧ WrotePRF s u d c ∧ u.readP d = [] ∧ u.readR c = 0xFFFFFFFF ∧
      u.f = true := by
  refine wrotePRF_of_finish ?_ (storePoly_nil s.cfg)
  rw [exec, execPgz, needCode_of_cv hcv, hr]

variable {K : Type} [Field K] [CharP K 2] (ρ : s.field.arith.FieldRep s.field.deg K)

theorem pgz_outcome (d : PReg) (c : RReg) {a : PReg} {f : K[X]} (hf : s.projm a = ρ.poly f) :
    ∃ u, exec (.pgz d c a) s = .next u ∧ WrotePRF s u d c ∧ Coefs s.field.deg (u.readP d) ∧
    ((∃ y, u.f = false ∧ 1 ≤ (u.readR c).toNat ∧ (u.readR c).toNat ≤ s.code.tNat ∧
        u.readP d = locatorOf (ρ.row (u.readR c).toNat y) ∧ SolvedBy (u.readR c).toNat (hankel f.coeff) y ∧
        SingularFrom s.field (Poly.coef (ρ.poly f)) ((u.readR c).toNat + 1) s.code.tNat) ∨
      (u.f = false ∧ u.readR c = 0 ∧ u.readP d = [1] ∧ allZero s.code.tNat (ρ.poly f) = true ∧
        SingularFrom s.field (Poly.coef (ρ.poly f)) 1 s.code.tNat) ∨
      (u.f = true ∧ u.readR c = 0xFFFFFFFF ∧ u.readP d = [] ∧ allZero s.code.tNat (ρ.poly f) = false ∧
        SingularFrom s.field (Poly.coef (ρ.poly f)) 1 s.code.tNat)) := by
  have hcoefs {P : Poly} {Λ : K[X]} (hP : P = ρ.poly Λ) : Coefs s.field.deg P := hP ▸ ρ.coefs_poly Λ
  obtain ⟨μ, y, h1, ht, hl, hrest⟩ | ⟨hl, hrest⟩ | ⟨hl, hrest⟩ := pgzLocate_cases ρ f s.code.tNat
  · obtain ⟨u, hx, hw, hd, hr, hu⟩ := pgz_outcome_some h hcv d c (hf ▸ hl)
    obtain ⟨Λ, hΛ, -⟩ := exists_locatorOf_eq_poly ρ y
    have hμ : (u.readR c).toNat = μ := by
      rw [hr, BitVec.toNat_ofNat, Nat.mod_eq_of_lt (ht.trans_lt s.code.t.isLt)]
    subst hμ
    exact ⟨u, hx, hw, hcoefs (hd.trans hΛ), .inl ⟨y, hu, h1, ht, hd, hrest⟩⟩
  · obtain ⟨u, hx, hw, hd, hr, hu⟩ := pgz_outcome_some h hcv d c (hf ▸ hl)
    exact ⟨u, hx, hw, hcoefs (hd.trans ρ.poly_one.symm), .inr (.inl ⟨hu, hr, hd, hrest⟩)⟩
  · obtain ⟨u, hx, hw, hd, hr, hu⟩ := pgz_outcome_none hcv d c (hf ▸ hl)
    exact ⟨u, hx, hw, hcoefs (hd.trans ρ.poly_zero.symm), .inr (.inr ⟨hu, hr, hd, hrest⟩)⟩

end

/-- The syndromes PGZ reads are the coefficients of the projected register. -/
theorem fe_coef_eq (s : State) (a : PReg) : (fun i => s.field.fe (Poly.coef (s.readP a) i)) = Poly.coef (s.projm a) :=
  funext fun _ => (coef_proj ..).symm

/-- Settles O55: the outcomes of `pgz_outcome`; a nonsingular system is not degenerate. -/
theorem pgzOutcomes : Obligations.PgzOutcomes := by
  intro s d c a h hcv S t μ allSingular
  obtain ⟨K, _, ρ, f, hf⟩ := exists_projm_eq_poly h hcv a
  have := ρ.charP_two
  obtain ⟨u, hx, hw, hcoefs, hcase⟩ := pgz_outcome h hcv ρ d c hf
  have hS : S = Poly.coef (ρ.poly f) := hf ▸ fe_coef_eq s a
  simp only [allSingular, hS]
  refine ⟨u, hx, hw, hcoefs, ?_⟩
  obtain ⟨y, hu, h1, ht, hd, hy, hlater⟩ | ⟨hu, hr, hd, hzero, hall⟩ | ⟨hu, hr, hd, hzero, hall⟩ := hcase
  · obtain ⟨Λ, hΛ, hdeg⟩ := exists_locatorOf_eq_poly ρ y
    refine .inl ⟨hu, h1, ht, hd ▸ coef_locatorOf_zero _, ?_,
      mt (singular_iff ρ f).mp (not_degenerate_of_solvedBy hy), hlater⟩
    rw [hd, hΛ]
    exact Int.le_of_lt_add_one (ρ.deg_poly_lt_natCast_iff.mpr hdeg)
  · exact .inr (.inl ⟨hu, hr, hd, hall, allZero_iff.mp hzero⟩)
  · have hsome := mt allZero_iff.mpr (Bool.eq_false_iff.mp hzero)
    push Not at hsome
    exact .inr (.inr ⟨hu, hr, hd, hall, hsome⟩)

/-- Settles O56: `meetsNewton_iff_of_solvedBy` for the accepted system. -/
theorem pgzSolvesTheNewtonIdentities : Obligations.PgzSolvesTheNewtonIdentities := by
  intro s u d c a h hcv hx S t μ solves
  obtain ⟨K, _, ρ, f, hf⟩ := exists_projm_eq_poly h hcv a
  have := ρ.charP_two
  obtain ⟨u', hx', -, hcoefs, hcase⟩ := pgz_outcome h hcv ρ d c hf
  cases hx'.symm.trans hx
  have hS : S = Poly.coef (ρ.poly f) := hf ▸ fe_coef_eq s a
  have hsolves (Λ : Nat → Elem) (μ : Nat) :
      solves Λ μ ↔ MeetsNewton s.field (Poly.coef (ρ.poly f)) Λ μ := hS ▸ Iff.rfl
  simp only [hsolves, hS]
  obtain ⟨y, hu, h1, -, hd, hy, -⟩ | ⟨hu, hr, -, -, hall⟩ | ⟨hu, -, -, -, hall⟩ := hcase
  · have hmeets := meetsNewton_iff_of_solvedBy ρ f hy fun j _ _ => coefs_iff.mp hcoefs j
    have hcoef (j : Nat) (hj : j < μ) : Poly.coef (u.readP d) (μ - j) = ρ.bits (y j) :=
      hd ▸ coef_locatorOf_row ρ y hj
    refine ⟨fun _ => hmeets.mpr hcoef, fun _ Λ hΛ hsol j hj1 hj => ?_, fun _ => ⟨hu, h1⟩⟩
    have heq := (meetsNewton_iff_of_solvedBy ρ f hy hΛ).mp hsol (μ - j) (by omega)
    rwa [← hcoef _ (by omega), Nat.sub_sub_self hj] at heq
  · have hμ : μ = 0 := congrArg BitVec.toNat hr
    rw [hμ]
    refine ⟨fun _ row h1 h0 => ?_, fun _ Λ _ _ j h1 h0 => ?_, fun ⟨ν, h1, ht, hns⟩ => absurd (hall ν h1 ht) hns⟩
    · exact absurd (h1.trans h0) (by decide)
    · exact absurd (h1.trans h0) (by decide)
  · refine ⟨fun hf => ?_, fun hf => ?_, fun ⟨ν, h1, ht, hns⟩ => absurd (hall ν h1 ht) hns⟩
    · exact Bool.noConfusion (hu.symm.trans hf)
    · exact Bool.noConfusion (hu.symm.trans hf)

end Sys2Proof.Machine
end

section
/-! DEC is PGZ, CHIEN and CORR in sequence on the syndromes, and round trips through the code (44_codec.md R219,
R220). -/

namespace Sys2Proof.Machine

open Sys2Proof.Spec Polynomial

/-! ### PGZ, CHIEN and CORR in sequence -/

/-- The message CORR recovers and the mask it used, or none where a check fails (44_codec.md R216). -/
def recoveredWith (C : CodeState) (rcv mask : Poly) : Option (Poly × Poly) :=
  if (recoverMsg C (Poly.add rcv mask)).2 then some ((recoverMsg C (Poly.add rcv mask)).1, mask) else none

/-- Message and mask after PGZ, CHIEN and CORR on a received word, or none where one of them fails. -/
def correctReceived (F : FieldState) (C : CodeState) (rcv : Poly) : Option (Poly × Poly) :=
  match pgzLocate F C.tNat (syndromes F C.tNat rcv) with
  | none => none
  | some l => if chienFail F C.nNat l.1 then none else recoveredWith C rcv (chienMask F C.nNat l.1)

/-- DEC's outputs for a sequence that failed or gave message and mask (44_codec.md R219). -/
def sequenceOutputs (clean : Bool) : Option (Poly × Poly) → DecodeStatus × Poly × Poly
  | none => (.uncorrectable, [], [])
  | some r => (if clean then .noError else .corrected, r.1, r.2)

section
variable {F : FieldState} {C : CodeState} {rcv : Poly}

theorem correctReceived_of_pgz_none (hl : pgzLocate F C.tNat (syndromes F C.tNat rcv) = none) :
    correctReceived F C rcv = none := by
  rw [correctReceived, hl]

theorem correctReceived_of_pgz_some {l : Poly × Nat} (hl : pgzLocate F C.tNat (syndromes F C.tNat rcv) = some l) :
    correctReceived F C rcv =
      if chienFail F C.nNat l.1 then none else recoveredWith C rcv (chienMask F C.nNat l.1) := by
  rw [correctReceived, hl]

/-- The mask is CHIEN's, and the message passed the checks of CORR. -/
theorem exists_of_correctReceived {r : Poly × Poly} (hr : correctReceived F C rcv = some r) :
    (∃ Λ, r.2 = chienMask F C.nNat Λ) ∧ (recoverMsg C (Poly.add rcv r.2)).2 = true ∧
      (recoverMsg C (Poly.add rcv r.2)).1 = r.1 := by
  cases hl : pgzLocate F C.tNat (syndromes F C.tNat rcv) with
  | none => cases (correctReceived_of_pgz_none hl).symm.trans hr
  | some l =>
    rw [correctReceived_of_pgz_some hl] at hr
    split at hr
    · cases hr
    · rw [recoveredWith] at hr
      split at hr
      next hok =>
        cases hr
        exact ⟨⟨l.1, rfl⟩, hok, rfl⟩
      next => cases hr

theorem sequenceOutputs_dst (clean : Bool) (r : Poly × Poly) :
    (sequenceOutputs clean (some r)).1.code = if clean then 0 else 1 := by
  cases clean <;> rfl

theorem sequenceOutputs_f (clean : Bool) (r : Poly × Poly) :
    ((sequenceOutputs clean (some r)).1 == .uncorrectable) = false := by
  cases clean <;> rfl

end

/-! ### No errors -/

theorem isRoot_one (F : FieldState) (i : Nat) : isRoot F [1] i = false := by
  have hval : Poly.eval F.arith [1] (F.alphaNegPow i) = F.mul 0#16 (F.alphaNegPow i) ^^^ 1 := rfl
  rw [isRoot, hval, F.zero_mul]
  rfl

/-- The locator 1 has no root, and its degree is 0 (44_codec.md R212). -/
theorem chienFail_one (F : FieldState) (n : Nat) : chienFail F n [1] = false := by
  have hcount : chienCount F n [1] = 0 := List.countP_eq_zero.mpr fun i _ => Bool.eq_false_iff.mp (isRoot_one F i)
  rw [chienFail, hcount]
  rfl

theorem chienMask_one (F : FieldState) (n : Nat) : chienMask F n [1] = [] := by
  have hzero : (0 : (ZMod 2)[X]).degree < n := degree_zero.trans_lt (WithBot.bot_lt_coe n)
  refine (gf2Rep.tabulate_eq_poly hzero fun i _ => ?_).trans gf2Rep.poly_zero
  rw [isRoot_one, coeff_zero, gf2Rep.bits_zero]
  rfl

theorem add_nil_poly (f : (ZMod 2)[X]) : Poly.add (gf2Rep.poly f) [] = gf2Rep.poly f := by
  rw [← gf2Rep.poly_zero, gf2Rep.add_poly, add_zero]

/-- With zero syndromes every M_μ is singular, so PGZ ends at μ = 0 (44_codec.md R208). -/
theorem pgzLocate_of_allZero {F : FieldState} {K : Type} [Field K] (ρ : F.arith.FieldRep F.deg K) {t : Nat} {f : K[X]}
    (h : allZero t (ρ.poly f) = true) : pgzLocate F t (ρ.poly f) = some ([1], 0) := by
  have := ρ.charP_two
  obtain ⟨μ, y, h1, ht, -, hy, -⟩ | ⟨hl, -⟩ | ⟨-, hz, -⟩ := pgzLocate_cases ρ f t
  · refine absurd ⟨Pi.single 0 1, fun i hi => Finset.sum_eq_zero fun j hj => ?_, ?_, 0, h1, ?_⟩
      (not_degenerate_of_solvedBy hy)
    · have hj := Finset.mem_range.mp hj
      have hzero := allZero_iff.mp h (i + j + 1) (by omega) (by omega)
      rw [ρ.coef_poly] at hzero
      rw [hankel, ρ.bits_eq_zero_iff.mp hzero, zero_mul]
    · exact Pi.single_eq_of_ne (Nat.ne_zero_of_lt h1) 1
    · simp
  · exact hl
  · exact Bool.noConfusion (hz.symm.trans h)

section
variable {s : State} (h : s.Inv) (hcv : s.code.cv = true) (f : (ZMod 2)[X])
include h hcv

/-- On zero syndromes the sequence checks the received word as it stands. -/
theorem correctReceived_of_allZero
    (hz : allZero s.code.tNat (syndromes s.field s.code.tNat (gf2Rep.poly f)) = true) :
    correctReceived s.field s.code (gf2Rep.poly f) = recoveredWith s.code (gf2Rep.poly f) [] := by
  obtain ⟨K, _, ⟨ρ⟩⟩ := exists_fieldRep h.cfgValid (fieldBuilt_of_cv h hcv)
  obtain ⟨S, hS, -⟩ := exists_syndromes_eq_poly h hcv ρ f
  have hl := hS ▸ pgzLocate_of_allZero ρ (hS ▸ hz)
  rw [correctReceived_of_pgz_some hl, if_neg (Bool.eq_false_iff.mp (chienFail_one _ _)), chienMask_one]

theorem decodeReceived_eq : decodeReceived s (gf2Rep.poly f) =
    sequenceOutputs (allZero s.code.tNat (syndromes s.field s.code.tNat (gf2Rep.poly f)))
      (correctReceived s.field s.code (gf2Rep.poly f)) := by
  rw [decodeReceived]
  dsimp only
  cases hz : allZero s.code.tNat (syndromes s.field s.code.tNat (gf2Rep.poly f)) with
  | true =>
    rw [correctReceived_of_allZero h hcv f hz, if_pos rfl, recoveredWith, add_nil_poly]
    split <;> rfl
  | false =>
    rw [if_neg Bool.false_ne_true]
    cases hl : pgzLocate s.field s.code.tNat (syndromes s.field s.code.tNat (gf2Rep.poly f)) with
    | none => rw [correctReceived_of_pgz_none hl]; rfl
    | some l =>
      rw [correctReceived_of_pgz_some hl]
      dsimp only
      split
      · rfl
      · rw [recoveredWith]
        split <;> rfl

/-- The mask is empty exactly on zero syndromes: with an empty mask g divides the received word itself. -/
theorem mask_eq_nil_iff {r : Poly × Poly} (hr : correctReceived s.field s.code (gf2Rep.poly f) = some r) :
    r.2 = [] ↔ allZero s.code.tNat (syndromes s.field s.code.tNat (gf2Rep.poly f)) = true := by
  refine ⟨fun hnil => ?_, fun hz => ?_⟩
  · obtain ⟨g, hC⟩ := exists_generatedBy h hcv
    obtain ⟨-, hok, -⟩ := exists_of_correctReceived hr
    rw [hnil, add_nil_poly] at hok
    obtain ⟨m, -, hm⟩ := (recoverMsg_snd_iff hC).mp hok
    exact (allZero_syndromes_iff_dvd h hcv hC f).mpr (hm ▸ dvd_codeword m)
  · rw [correctReceived_of_allZero h hcv f hz, recoveredWith] at hr
    split at hr <;> cases hr
    rfl

/-- Message and mask of the sequence are stored whole. -/
theorem storePoly_of_correctReceived {r : Poly × Poly}
    (hr : correctReceived s.field s.code (gf2Rep.poly f) = some r) :
    storePoly s.cfg r.1 = r.1 ∧ storePoly s.cfg r.2 = r.2 := by
  obtain ⟨⟨Λ, hmask⟩, -, hmsg⟩ := exists_of_correctReceived hr
  obtain ⟨e, he, hen⟩ := exists_chienMask_eq_poly s.field s.code.nNat Λ
  rw [hmask.trans he, gf2Rep.add_poly] at hmsg
  exact ⟨hmsg ▸ storePoly_recoverMsg h hcv (f + e), hmask.trans he ▸ storePoly_of_degree_lt h hcv hen⟩

end

/-! ### DEC -/

theorem dec_outcome {s : State} (h : s.Inv) (hcv : s.code.cv = true) {d c : PReg} (hdc : d ≠ c) (a : PReg) {b : RReg}
    (hb : s.readR b = s.code.n) :
    let rcv := bitVector s.code.nNat (s.readP a)
    let clean := allZero s.code.tNat (syndromes s.field s.code.tNat rcv)
    ∃ t, exec (.dec d c a b) s = .next t ∧ WrotePPFDst s t d c ∧
      ((∃ r, correctReceived s.field s.code rcv = some r ∧ t.f = false ∧ t.dst = (if clean then 0 else 1) ∧
          t.readP d = r.1 ∧ t.readP c = r.2) ∨
        (correctReceived s.field s.code rcv = none ∧ t.f = true ∧ t.dst = 2 ∧ t.readP d = [] ∧ t.readP c = [])) := by
  intro rcv clean
  obtain ⟨f, hf, -⟩ := exists_bitVector_eq_poly s.code.nNat (s.readP a)
  have hrcv : rcv = gf2Rep.poly f := hf
  have hx : exec (.dec d c a b) s = finish (((s.writeP d (decodeReceived s rcv).2.1).writeP c
      (decodeReceived s rcv).2.2).writeOutcome (decodeReceived s rcv).1) :=
    (if_neg hdc).trans ((if_pos hcv).trans (if_neg (not_not.mpr hb)))
  rw [hrcv, decodeReceived_eq h hcv f, ← hrcv] at hx
  cases hr : correctReceived s.field s.code rcv with
  | none =>
    rw [hr] at hx
    obtain ⟨t, hx, hw, htd, htc, hdst, htf⟩ := wrotePPFDst_of_finish hdc hx (storePoly_nil _) (storePoly_nil _)
    exact ⟨t, hx, hw, .inr ⟨rfl, htf, hdst, htd, htc⟩⟩
  | some r =>
    rw [hr] at hx
    obtain ⟨hmsg, hmask⟩ := storePoly_of_correctReceived h hcv f (hrcv ▸ hr)
    obtain ⟨t, hx, hw, htd, htc, hdst, htf⟩ := wrotePPFDst_of_finish hdc hx hmsg hmask
    exact ⟨t, hx, hw, .inl ⟨r, rfl, htf.trans (sequenceOutputs_f _ r), hdst.trans (sequenceOutputs_dst _ r), htd, htc⟩⟩

/-! ### Codec commands one after the other -/

/-- `t` has the field and the code of `s`, and meets the invariant. -/
structure SameCode (s t : State) : Prop where
  inv : t.Inv
  field : t.field = s.field
  code : t.code = s.code

theorem op_ne_of_needsCodeBuilt {i : Instr} (hi : needsCodeBuilt i = true) : i.op ≠ .buildf ∧ i.op ≠ .buildc := by
  cases i with
  | buildf | buildc => exact Bool.noConfusion hi
  | _ => exact ⟨nofun, nofun⟩

theorem SameCode.exec {i : Instr} {s t u : State} (ht : SameCode s t) (hi : needsCodeBuilt i = true)
    (hx : exec i t = .next u) : SameCode s u := by
  obtain ⟨hf, hc⟩ := op_ne_of_needsCodeBuilt hi
  refine ⟨inv_exec ht.inv hx, ?_, ?_⟩
  · exact ht.field ▸ by_contra fun hne => hf (field_of_exec hx hne).1
  · exact ht.code ▸ by_contra fun hne => (code_of_exec hx hne).elim hf fun h => hc h.1

theorem encoded_of_enc {s t : State} (h : s.Inv) (hcv : s.code.cv = true) {g : (ZMod 2)[X]}
    (hC : s.code.GeneratedBy g) {d a : PReg} {b : RReg} (hb : s.readR b = s.code.k)
    (hx : exec (.enc d a b) s = .next t) : SameCode s t ∧ ∃ m : (ZMod 2)[X],
      bitVector s.code.kNat (s.readP a) = gf2Rep.poly m ∧ m.degree < s.code.kNat ∧
      t.readP d = gf2Rep.poly (s.code.codeword g m) ∧ bitVector s.code.nNat (t.readP d) = t.readP d := by
  obtain ⟨t', m, hx', -, hm, hmk, ht⟩ := enc_outcome h hcv hC d a hb
  cases hx'.symm.trans hx
  exact ⟨.exec ⟨h, rfl, rfl⟩ rfl hx, m, hm, hmk, ht, ht ▸ bitVector_poly (degree_codeword_lt hC hmk)⟩

/-! ### Round trips -/

/-- Settles O60: recovering undoes encoding, the codeword has zero syndromes, and an empty mask corrects none else. -/
theorem roundTripThroughTheCode : Obligations.RoundTripThroughTheCode := by
  refine ⟨?_, ?_, ?_⟩
  · intro s t d a d' c' m b h hcv hb hx hdc hmask
    obtain ⟨g, hC⟩ := exists_generatedBy h hcv
    obtain ⟨ht, msg, hmsg, hk, hword, hself⟩ := encoded_of_enc h hcv hC hb hx
    have hempty : bitVector s.code.nNat (t.readP m) = [] := hmask
    have hflip : t.flipped d m = t.readP d := by rw [State.flipped, ht.code, hself, hempty, hword, add_nil_poly]
    obtain ⟨u, hu, -, hcase⟩ := corr_outcome ht.inv (ht.code ▸ hcv) hdc d m
    rw [hflip, ht.code, hword, recoverMsg_codeword hC hk] at hcase
    obtain ⟨-, huf, hud, huc⟩ | ⟨hfail, -⟩ := hcase
    · exact ⟨u, hu, huf, hud.trans hword.symm, huc.trans hmsg.symm⟩
    · exact Bool.noConfusion hfail
  · intro s t d a d' c' b b' h hcv hb hb' hx hdc
    obtain ⟨g, hC⟩ := exists_generatedBy h hcv
    obtain ⟨ht, msg, hmsg, hk, hword, hself⟩ := encoded_of_enc h hcv hC hb hx
    have hn : t.readR b' = t.code.n := by rw [readR_of_exec hx nofun, hb', ht.code]
    have hclean := (allZero_syndromes_iff_dvd h hcv hC _).mpr (dvd_codeword (C := s.code) (g := g) msg)
    have hseq := correctReceived_of_allZero h hcv _ hclean
    rw [recoveredWith, add_nil_poly, recoverMsg_codeword hC hk, if_pos rfl] at hseq
    obtain ⟨u, hu, -, hcase⟩ := dec_outcome ht.inv (ht.code ▸ hcv) hdc d hn
    rw [ht.code, ht.field, hself, hword, hseq, hclean] at hcase
    obtain ⟨r, hr, huf, hdst, hud, huc⟩ | ⟨hfail, -⟩ := hcase
    · cases hr
      exact ⟨u, hu, hdst, huf, hud.trans hmsg.symm, huc⟩
    · cases hfail
  · intro s t d c a b h hcv hdc hb hx hdst hnil
    obtain ⟨t', hx', -, hcase⟩ := dec_outcome h hcv hdc a hb
    cases hx'.symm.trans hx
    obtain ⟨f, hf, -⟩ := exists_bitVector_eq_poly s.code.nNat (s.readP a)
    rw [hf] at hcase
    obtain ⟨r, hr, -, hclean, -, htc⟩ | ⟨-, -, hfail, -⟩ := hcase
    · rw [(mask_eq_nil_iff h hcv f hr).mp (htc.symm.trans hnil), hdst] at hclean
      exact absurd hclean (by decide)
    · exact absurd (hdst.symm.trans hfail) (by decide)

/-! ### SYN, PGZ, CHIEN and CORR in sequence -/

theorem Arith.FieldRep.proj_poly {A : Arith} {n : Nat} {K : Type} [Field K] (ρ : A.FieldRep n K) (f : K[X]) :
    Poly.proj n (ρ.poly f) = ρ.poly f := by
  refine eq_of_coef (trim_trim _) (ρ.trim_poly f) fun j => ?_
  rw [coef_proj, ρ.coef_poly, lowBits_of_lt (ρ.bits_lt _)]

section
variable {s : State} (h : s.Inv) (hcv : s.code.cv = true)
include h hcv

theorem sameCode_of_syn {s₁ : State} {x a : PReg} {b : RReg} (hb : s.readR b = s.code.n)
    (hx : exec (.syn x a b) s = .next s₁) : SameCode s s₁ ∧
      s₁.readP x = syndromes s.field s.code.tNat (bitVector s.code.nNat (s.readP a)) := by
  obtain ⟨t, hx', -, ht⟩ := syn_outcome h hcv x a hb
  cases hx'.symm.trans hx
  exact ⟨.exec ⟨h, rfl, rfl⟩ rfl hx, ht⟩

/-- PGZ on a vector that SYN wrote is PGZ on the syndromes, and CHIEN reads its locator whole. -/
theorem pgz_of_syndromes {s₁ s₂ : State} (h₁ : SameCode s s₁) {x y : PReg} {r : RReg}
    (hx : exec (.pgz y r x) s₁ = .next s₂) {f : (ZMod 2)[X]}
    (hread : s₁.readP x = syndromes s.field s.code.tNat (gf2Rep.poly f)) :
    (∃ l, pgzLocate s.field s.code.tNat (syndromes s.field s.code.tNat (gf2Rep.poly f)) = some l ∧
      s₂.f = false ∧ s₂.projm y = l.1) ∨
    (pgzLocate s.field s.code.tNat (syndromes s.field s.code.tNat (gf2Rep.poly f)) = none ∧ s₂.f = true) := by
  obtain ⟨K, _, ⟨ρ⟩⟩ := exists_fieldRep h.cfgValid (fieldBuilt_of_cv h hcv)
  have := ρ.charP_two
  obtain ⟨S, hS, -⟩ := exists_syndromes_eq_poly h hcv ρ f
  have h₂ := h₁.exec rfl hx
  have hproj : pgzLocate s₁.field s₁.code.tNat (s₁.projm x) = pgzLocate s.field s.code.tNat (ρ.poly S) := by
    rw [State.projm, h₁.field, h₁.code, hread, hS, ρ.proj_poly]
  rw [hS]
  cases hl : pgzLocate s.field s.code.tNat (ρ.poly S) with
  | none =>
    obtain ⟨u, hu, -, -, -, huf⟩ := pgz_outcome_none (h₁.code ▸ hcv) y r (hproj.trans hl)
    cases hu.symm.trans hx
    exact .inr ⟨rfl, huf⟩
  | some l =>
    obtain ⟨Λ, hΛ, -⟩ := exists_locator_eq_poly ρ S hl
    obtain ⟨u, hu, -, hd, -, huf⟩ := pgz_outcome_some h₁.inv (h₁.code ▸ hcv) y r (hproj.trans hl)
    cases hu.symm.trans hx
    refine .inl ⟨l, rfl, huf, ?_⟩
    rw [State.projm, h₂.field, hd, hΛ, ρ.proj_poly]

omit h in
theorem chien_of_locator {s₂ s₃ : State} (h₂ : SameCode s s₂) {y z : PReg} {r : RReg}
    (hx : exec (.chien z r y) s₂ = .next s₃) :
    s₃.readP z = chienMask s.field s.code.nNat (s₂.projm y) ∧
      s₃.f = chienFail s.field s.code.nNat (s₂.projm y) := by
  obtain ⟨u, hu, -, hd, -, huf⟩ := chien_outcome h₂.inv (h₂.code ▸ hcv) z r y
  cases hu.symm.trans hx
  rw [hd, huf, h₂.field, h₂.code]
  exact ⟨rfl, rfl⟩

omit h in
theorem corr_of_mask {s₃ s₄ : State} (h₃ : SameCode s s₃) {w m a z : PReg} (hwm : w ≠ m)
    (hx : exec (.corr w m a z) s₃ = .next s₄) {f e : (ZMod 2)[X]}
    (hrcv : bitVector s.code.nNat (s₃.readP a) = gf2Rep.poly f)
    (hmask : s₃.readP z = gf2Rep.poly e) (hen : e.degree < s.code.nNat) :
    let c := recoverMsg s.code (Poly.add (gf2Rep.poly f) (gf2Rep.poly e))
    (c.2 = true ∧ s₄.f = false ∧ s₄.readP m = c.1) ∨ (c.2 = false ∧ s₄.f = true) := by
  have hflip : s₃.flipped a z = Poly.add (gf2Rep.poly f) (gf2Rep.poly e) := by
    rw [State.flipped, h₃.code, hrcv, hmask, bitVector_poly hen]
  obtain ⟨u, hu, -, hcase⟩ := corr_outcome h₃.inv (h₃.code ▸ hcv) hwm a z
  cases hu.symm.trans hx
  rw [hflip, h₃.code] at hcase
  obtain ⟨hok, huf, -, hm⟩ | ⟨hno, huf, -, -⟩ := hcase
  · exact .inl ⟨hok, huf, hm⟩
  · exact .inr ⟨hno, huf⟩

/-- The four commands, one after the other, do what `correctReceived` does. -/
theorem sequence_outcome {s₁ s₂ s₃ s₄ : State} {x a y z w m : PReg} {b r r' : RReg} (hb : s.readR b = s.code.n)
    (hxa : x ≠ a) (hya : y ≠ a) (hza : z ≠ a) (hwm : w ≠ m) (hx₁ : exec (.syn x a b) s = .next s₁)
    (hx₂ : exec (.pgz y r x) s₁ = .next s₂) (hx₃ : exec (.chien z r' y) s₂ = .next s₃)
    (hx₄ : exec (.corr w m a z) s₃ = .next s₄) :
    let rcv := bitVector s.code.nNat (s.readP a)
    let ok := s₂.f = false ∧ s₃.f = false ∧ s₄.f = false
    (ok ∧ correctReceived s.field s.code rcv = some (s₄.readP m, s₃.readP z)) ∨
      (¬ ok ∧ correctReceived s.field s.code rcv = none) := by
  intro rcv ok
  obtain ⟨f, hf, -⟩ := exists_bitVector_eq_poly s.code.nNat (s.readP a)
  have hrcv : rcv = gf2Rep.poly f := hf
  obtain ⟨h₁, hsyn⟩ := sameCode_of_syn h hcv hb hx₁
  have h₂ := h₁.exec rfl hx₂
  have h₃ := h₂.exec rfl hx₃
  obtain ⟨hmask, hf₃⟩ := chien_of_locator hcv h₂ hx₃
  have hread : s₃.readP a = s.readP a := by
    rw [readP_of_exec hx₃ (by simpa [pDests] using hza.symm), readP_of_exec hx₂ (by simpa [pDests] using hya.symm),
      readP_of_exec hx₁ (by simpa [pDests] using hxa.symm)]
  rw [hrcv]
  obtain ⟨l, hl, hf₂, hlocator⟩ | ⟨hl, hf₂⟩ := pgz_of_syndromes h hcv h₁ hx₂ (hsyn.trans (congrArg _ hf))
  · obtain ⟨e, he, hen⟩ := exists_chienMask_eq_poly s.field s.code.nNat l.1
    rw [hlocator] at hmask hf₃
    have hcorr := corr_of_mask hcv h₃ hwm hx₄ (hread ▸ hf) (hmask.trans he) hen
    rw [← he] at hcorr
    rw [correctReceived_of_pgz_some hl, ← hf₃, hmask]
    by_cases hfail : s₃.f = true
    · exact .inr ⟨fun hok => Bool.noConfusion (hfail.symm.trans hok.2.1), if_pos hfail⟩
    · rw [if_neg hfail]
      obtain ⟨hrec, hf₄, hm⟩ | ⟨hrec, hf₄⟩ := hcorr
      · exact .inl ⟨⟨hf₂, Bool.eq_false_iff.mpr hfail, hf₄⟩, by rw [recoveredWith, if_pos hrec, hm]⟩
      · exact .inr ⟨fun hok => Bool.noConfusion (hf₄.symm.trans hok.2.2), if_neg (Bool.eq_false_iff.mp hrec)⟩
  · exact .inr ⟨fun hok => Bool.noConfusion (hf₂.symm.trans hok.1), correctReceived_of_pgz_none hl⟩

end

/-! ### The outcomes of DEC -/

/-- Settles O59: DEC's outputs are those of `correctReceived`, and so are the sequence's. -/
theorem decOutcomes : Obligations.DecOutcomes := by
  refine ⟨fun s d c a b h hcv hdc => ?_, ?_⟩
  · intro rcv clean
    refine ⟨fun hb => ?_, fun hb => (if_neg hdc).trans ((if_pos hcv).trans (if_pos hb))⟩
    obtain ⟨t, hx, hw, hcase⟩ := dec_outcome h hcv hdc a hb
    obtain ⟨f, hf, -⟩ := exists_bitVector_eq_poly s.code.nNat (s.readP a)
    have hrcv : rcv = gf2Rep.poly f := hf
    have hclean : clean ↔ allZero s.code.tNat (syndromes s.field s.code.tNat rcv) = true := by
      refine Iff.trans ?_ allZero_syndromes_iff.symm
      exact forall₃_congr fun i _ hi => by rw [alphaPow_eq_alogAt h hcv hi]
    refine ⟨t, hx, hw, ?_⟩
    obtain ⟨r, hr, htf, hdst, htd, htc⟩ | ⟨-, htf, hdst, htd, htc⟩ := hcase
    · obtain ⟨-, hok, hmsg⟩ := exists_of_correctReceived hr
      have henc : encodeMsg s.code (t.readP d) = Poly.add rcv (t.readP c) := by
        rw [htd, htc, ← hmsg]
        exact encodeMsg_recoverMsg hok
      by_cases hz : clean
      · have hnil : t.readP c = [] := htc.trans ((mask_eq_nil_iff h hcv f (hf ▸ hr)).mpr (hrcv ▸ hclean.mp hz))
        rw [hnil, hrcv, add_nil_poly, ← hrcv] at henc
        exact .inl ⟨hdst.trans (if_pos (hclean.mp hz)), htf, hz, hnil, henc⟩
      · exact .inr (.inl ⟨hdst.trans (if_neg (mt hclean.mpr hz)), htf, hz, henc⟩)
    · exact .inr (.inr ⟨hdst, htf, htd, htc⟩)
  · intro s s₁ s₂ s₃ s₄ t d c a x y z w m b r r' h hcv hb hdc hxa hya hza hwm hx₁ hx₂ hx₃ hx₄ hx ok clean
    have hclean : clean ↔ allZero s.code.tNat
        (syndromes s.field s.code.tNat (bitVector s.code.nNat (s.readP a))) = true := by
      simp only [clean, (sameCode_of_syn h hcv hb hx₁).2]
      exact coef_syndromes_eq_zero_iff
    obtain ⟨t', hx', -, hcase⟩ := dec_outcome h hcv hdc a hb
    cases hx'.symm.trans hx
    obtain ⟨hok, hseq⟩ | ⟨hno, hseq⟩ := sequence_outcome h hcv hb hxa hya hza hwm hx₁ hx₂ hx₃ hx₄
    · obtain ⟨r, hr, htf, hdst, htd, htc⟩ | ⟨hnone, -⟩ := hcase
      · cases hseq.symm.trans hr
        exact ⟨fun _ => ⟨htf, htd, htc, fun hz => hdst.trans (if_pos (hclean.mp hz)),
          fun hz => hdst.trans (if_neg (mt hclean.mpr hz))⟩, fun hno => absurd hok hno⟩
      · cases hseq.symm.trans hnone
    · obtain ⟨r, hr, -⟩ | ⟨-, htf, hdst, htd, htc⟩ := hcase
      · cases hseq.symm.trans hr
      · exact ⟨fun hok => absurd hok hno, fun _ => ⟨htf, hdst, htd, htc⟩⟩

end Sys2Proof.Machine
end

section
/-! The transfer commands on whole registers, on single coefficients and on the degree (45_transfer.md R239–R247,
R250–R256). -/

namespace Sys2Proof.Machine

open Sys2Proof.Spec

/-! ### NOP -/

/-- Settles O25: NOP is the bare success commit, and a word that decodes to NOP is NOP's encoding. -/
theorem nopOnlyCompletes : Obligations.NopOnlyCompletes := by
  refine ⟨fun _ => rfl, fun w => ⟨fun h => ?_, fun h => h ▸ decodeOfEncodeIsTheCommand .nop rfl⟩⟩
  obtain ⟨-, hw⟩ := encodeOfDecodeIsTheWord w .nop h
  exact hw.symm

/-! ### The index gate -/

section
variable {s : State} {k : Unit → Result}

theorem needIndex_of_false {ok : Bool} (h : ok = false) : needIndex ok s k = .next (erroring s 0x0C) :=
  if_neg (Bool.eq_false_iff.mp h)

theorem coefIndexOk_of_lt {x : RReg} (h : (s.readR x).toNat < s.cfg.polyLen) : s.coefIndexOk (s.natReg x) = true :=
  decide_eq_true h

theorem coefIndexOk_of_le {x : RReg} (h : s.cfg.polyLen ≤ (s.readR x).toNat) : s.coefIndexOk (s.natReg x) = false :=
  decide_eq_false (Nat.not_lt.mpr h)

theorem wordIndexOk_of_le {x : RReg} (h : s.cfg.polyLen / 32 ≤ (s.readR x).toNat) :
    s.wordIndexOk (s.natReg x) = false :=
  decide_eq_false (Nat.not_lt.mpr h)

end

/-- Settles O29: each command's index gate raises the error before anything is written. -/
theorem indexOutOfRangeIsAnError : Obligations.IndexOutOfRangeIsAnError := by
  intro s pd pa ed ea x
  unfold exec
  refine ⟨fun h => ?_, fun h => ?_⟩
  · have hno := coefIndexOk_of_le h
    exact ⟨needIndex_of_false hno, needIndex_of_false hno, needIndex_of_false hno, needIndex_of_false hno⟩
  · have hno := wordIndexOk_of_le h
    exact ⟨needIndex_of_false hno, needIndex_of_false hno⟩

/-! ### What a register keeps of a moved value -/

/-- LDE and LDPC keep DIN's low M_MAX bits: an element has room for them. -/
theorem toNat_storeElem_elemOfWord {c : Params} (hc : c.Valid) (w : Word) :
    (storeElem c (elemOfWord w)).toNat = w.toNat % 2 ^ c.mMax := by
  obtain ⟨⟨-, hm⟩, -⟩ := hc
  rw [storeElem, lowBits_toNat, elemOfWord, BitVec.toNat_setWidth, Nat.mod_mod_of_dvd _ (Nat.pow_dvd_pow 2 hm)]

theorem toNat_wordOfElem (v : Elem) : (wordOfElem v).toNat = v.toNat :=
  BitVec.toNat_setWidth_of_le (by decide)

theorem toInt_immOperand (imm : BitVec 10) : (immOperand imm).toInt = imm.toInt :=
  BitVec.toInt_signExtend_of_le (by decide)

section
variable {s : State} (h : s.Inv)
include h

theorem storeElem_readE (i : EReg) : storeElem s.cfg (s.readE i) = s.readE i := storeElem_of_lt (h.elemsFit i)

theorem storePoly_readP (i : PReg) : storePoly s.cfg (s.readP i) = s.readP i := by
  obtain ⟨htrim, hlen, hcoefs⟩ := h.polysFit i
  exact storePoly_of_fits htrim hlen hcoefs

theorem storeElem_coef_readP (i : PReg) (j : Nat) :
    storeElem s.cfg (Poly.coef (s.readP i) j) = Poly.coef (s.readP i) j := by
  obtain ⟨-, -, hcoefs⟩ := h.polysFit i
  exact storeElem_of_lt (coefs_iff.mp hcoefs j)

end

theorem coef_storePoly_setCoef_same {c : Params} (P : Poly) {j : Nat} (hj : j < c.polyLen) (v : Elem) :
    Poly.coef (storePoly c (setCoef P j v)) j = storeElem c v := by
  rw [coef_storePoly, if_pos hj, coef_setCoef, if_pos rfl]

theorem coef_storePoly_setCoef_of_ne (c : Params) (P : Poly) {i j : Nat} (hij : i ≠ j) (v : Elem) :
    Poly.coef (storePoly c (setCoef P j v)) i = Poly.coef (storePoly c P) i :=
  coef_storePoly_congr c (by rw [coef_setCoef, if_neg hij])

/-! ### Whole registers -/

theorem wroteR_complete (s : State) (d : RReg) (v : Word) : WroteR s (s.writeR d v).complete d :=
  ⟨rfl, fun _ hi => readR_writeR_of_ne hi v⟩

theorem readR_writeR_complete (s : State) (d : RReg) (v : Word) : (s.writeR d v).complete.readR d = v := by
  rw [readR_complete, readR_writeR, if_pos rfl]

/-- Settles O26: each command is one write and the success commit, and its register keeps the whole value. -/
theorem registerTransfers : Obligations.RegisterTransfers := by
  refine ⟨fun s d a h => ⟨?lde, ?ste, ?emov⟩, fun s d a imm => ⟨?ldr, ?str, ?li, ?rmov⟩, fun s d a h => ⟨?pmov, ?pclr⟩⟩
  case lde =>
    refine ⟨_, rfl, wroteE_complete s d _, ?_⟩
    rw [readE_writeE_complete, toNat_storeElem_elemOfWord h.cfgValid]
  case ste => exact ⟨_, rfl, wroteDout_complete s _, toNat_wordOfElem (s.readE a)⟩
  case emov => exact ⟨_, rfl, wroteE_complete s d _, (readE_writeE_complete s d _).trans (storeElem_readE h a)⟩
  case ldr => exact ⟨_, rfl, wroteR_complete s d _, readR_writeR_complete s d s.din⟩
  case str => exact ⟨_, rfl, wroteDout_complete s _, rfl⟩
  case li =>
    refine ⟨_, rfl, wroteR_complete s d _, ?_⟩
    rw [readR_writeR_complete, toInt_immOperand]
  case rmov => exact ⟨_, rfl, wroteR_complete s d _, readR_writeR_complete s d (s.readR a)⟩
  case pmov =>
    refine ⟨_, rfl, wroteP_complete s d _, fun j => ?_⟩
    rw [readP_writeP_complete, storePoly_readP h]
  case pclr =>
    have hread := (readP_writeP_complete s d []).trans (storePoly_nil s.cfg)
    exact ⟨_, rfl, wroteP_complete s d _, fun j => congrArg (Poly.coef · j) hread⟩

/-! ### Single coefficients -/

section
variable {s : State} {x : RReg} (hx : (s.readR x).toNat < s.cfg.polyLen)
include hx

theorem exec_ldpc (d : PReg) : exec (.ldpc d x) s =
    .next (s.writeP d (setCoef (s.readP d) (s.readR x).toNat (elemOfWord s.din))).complete :=
  if_pos (coefIndexOk_of_lt hx)

theorem exec_stpc (a : PReg) : exec (.stpc a x) s =
    .next (s.writeDout (wordOfElem (Poly.coef (s.readP a) (s.readR x).toNat))).complete :=
  if_pos (coefIndexOk_of_lt hx)

theorem exec_pget (d : EReg) (a : PReg) : exec (.pget d a x) s =
    .next (s.writeE d (Poly.coef (s.readP a) (s.readR x).toNat)).complete :=
  if_pos (coefIndexOk_of_lt hx)

theorem exec_pset (d : PReg) (a : EReg) : exec (.pset d a x) s =
    .next (s.writeP d (setCoef (s.readP d) (s.readR x).toNat (s.readE a))).complete :=
  if_pos (coefIndexOk_of_lt hx)

end

/-- LDPC and PSET replace the indexed coefficient by what the register keeps of the value, and keep every other. -/
theorem setCoef_outcome {s : State} (h : s.Inv) {y : Result} {d : PReg} {j : Nat} {v : Elem} (hj : j < s.cfg.polyLen)
    (hy : y = .next (s.writeP d (setCoef (s.readP d) j v)).complete) :
    ∃ t, y = .next t ∧ WroteP s t d ∧ Poly.coef (t.readP d) j = storeElem s.cfg v ∧
      ∀ i, i ≠ j → Poly.coef (t.readP d) i = Poly.coef (s.readP d) i := by
  refine ⟨_, hy, wroteP_complete s d _, ?_, fun i hi => ?_⟩
  · rw [readP_writeP_complete, coef_storePoly_setCoef_same _ hj]
  · rw [readP_writeP_complete, coef_storePoly_setCoef_of_ne _ _ hi, storePoly_readP h]

/-- Settles O27: the index passes the gate, and the one write is of a coefficient or of what it holds. -/
theorem coefficientTransfers : Obligations.CoefficientTransfers := by
  intro s pd pa ed ea x h hx
  refine ⟨?ldpc, ⟨_, exec_stpc hx pa, wroteDout_complete s _, toNat_wordOfElem _⟩,
    ⟨_, exec_pget hx ed pa, wroteE_complete s ed _, ?pget⟩, ?pset⟩
  case ldpc =>
    obtain ⟨t, ht, hw, hset, hrest⟩ := setCoef_outcome h hx (exec_ldpc hx pd)
    exact ⟨t, ht, hw, hset ▸ toNat_storeElem_elemOfWord h.cfgValid s.din, hrest⟩
  case pget => rw [readE_writeE_complete, storeElem_coef_readP h]
  case pset =>
    obtain ⟨t, ht, hw, hset, hrest⟩ := setCoef_outcome h hx (exec_pset hx pd ea)
    exact ⟨t, ht, hw, hset.trans (storeElem_readE h ea), hrest⟩

/-! ### The degree -/

theorem deg_of_coef_eq_zero {p : Poly} (h : ∀ j, Poly.coef p j = 0) : Poly.deg p = -1 := by
  have hnil : Poly.trim p = [] := trim_eq_of_coef (q := []) h
  rw [Poly.deg, hnil]
  rfl

theorem deg_of_highest {p : Poly} {n : Nat} (hn : Poly.coef p n ≠ 0) (hz : ∀ j, n < j → Poly.coef p j = 0) :
    Poly.deg p = n := by
  have hle : (Poly.trim p).length ≤ n + 1 :=
    (length_le_iff (trim_trim p)).mpr fun j hj => (coef_trim p j).trans (hz j hj)
  have hlt : n < (Poly.trim p).length := by
    by_contra hge
    exact hn ((coef_trim p n).symm.trans (coef_of_length_le (Nat.not_lt.mp hge)))
  rw [Poly.deg]
  omega

theorem lt_polyLen_of_coef_ne_zero {c : Params} {P : Poly} (hP : polyFits c P) {j : Nat} (hj : Poly.coef P j ≠ 0) :
    j < c.polyLen := by
  obtain ⟨-, hlen, -⟩ := hP
  exact (Nat.lt_of_not_le fun h => hj (coef_of_length_le h)).trans_le hlen

theorem toNat_degWord {n : Nat} (hn : n < 2 ^ 32) : (degWord n).toNat = n := by
  rw [degWord, BitVec.ofInt_natCast, BitVec.toNat_ofNat, Nat.mod_eq_of_lt hn]

theorem polyLen_lt {c : Params} (hc : c.Valid) : c.polyLen < 2 ^ 32 := by
  obtain ⟨-, -, ⟨-, -, hwords⟩, -⟩ := hc
  omega

/-- Settles O30: r[D] takes the degree's word, and an index inside the register fits 32 bits. -/
theorem pdegIsTheHighestNonzeroIndex : Obligations.PdegIsTheHighestNonzeroIndex := by
  intro s d a h
  refine ⟨_, rfl, wroteR_complete s d _, fun hz => ?_, fun j hj hz => ?_⟩
  · rw [readR_writeR_complete, deg_of_coef_eq_zero hz]
    rfl
  · have hlt := lt_polyLen_of_coef_ne_zero (h.polysFit a) hj
    rw [readR_writeR_complete, deg_of_highest hj hz, toNat_degWord (hlt.trans (polyLen_lt h.cfgValid))]

end Sys2Proof.Machine
end

section
/-! The error latch and the IRQ output: what an error commit writes, what the host can still change while an error is
latched, and when IRQ is raised (60_exceptions.md R284, R286, R290, R292, R293). -/

namespace Sys2Proof.Machine

open Sys2Proof.Spec

section
variable {i : Instr} {s t : State}

/-! ### The error commit (60_exceptions.md R281, R284) -/

/-- A command either makes the error commit, with a code that belongs to it, or leaves the latch alone. -/
theorem errorCommit_or_latch_eq_of_exec (h : exec i s = .next t) :
    (∃ c : ErrorCode, t = s.errorCommit c ∧ (i.wellFormed = true → c.code ∈ raisable i)) ∨
    (t.err = s.err ∧ t.ecode = s.ecode ∧ t.errcmd = s.errcmd) := by
  cases commits_of_exec h with
  | raised hc => exact .inl ⟨_, rfl, fun _ => List.contains_iff_mem.mp hc⟩
  | illFormed hw => exact .inl ⟨_, rfl, fun h => Bool.noConfusion (hw.symm.trans h)⟩
  | _ => exact .inr ⟨rfl, rfl, rfl⟩

theorem errorCommit_of_exec (hs : s.err = false) (h : exec i s = .next t) (ht : t.err = true) :
    ∃ c : ErrorCode, t = s.errorCommit c ∧ (i.wellFormed = true → c.code ∈ raisable i) := by
  obtain hc | ⟨herr, -, -⟩ := errorCommit_or_latch_eq_of_exec h
  · exact hc
  · exact Bool.noConfusion (ht.symm.trans (herr.trans hs))

theorem latch_eq_of_exec (h : exec i s = .next t) (ht : t.err = false) :
    t.ecode = s.ecode ∧ t.errcmd = s.errcmd := by
  obtain ⟨c, rfl, -⟩ | ⟨-, hlatch⟩ := errorCommit_or_latch_eq_of_exec h
  · exact Bool.noConfusion ht
  · exact hlatch

/-! ### What the host can change while an error is latched (60_exceptions.md R286) -/

/-- `t` differs from `s` at most in DONE, OVR, DIN and the model's own record of the host. -/
def HostWroteOnly (s t : State) : Prop :=
  t = { s with done := t.done, ovr := t.ovr, din := t.din, agenda := t.agenda, rdata := t.rdata }

/-- An admitted write is 32 bits wide, at the bus address of its register. -/
theorem hostWrite_cases {addr bytes : Nat} {v : Word} (h : hostWrite addr bytes v s = .next t) :
    t = s ∨ ∃ off, addr = s.cfg.engineBase + off ∧ bytes = 4 ∧
      t = s.writeReg (WindowReg.ofOffset off) v := by
  obtain ⟨hwin, -⟩ := hostWrite_next h
  have hbase : s.cfg.engineBase ≤ addr := (of_decide_eq_true hwin).1
  rw [hostWrite, if_pos hwin] at h
  split at h
  · next hadm =>
    rw [admitted, Bool.and_eq_true_iff, beq_iff_eq] at hadm
    cases h
    exact .inr ⟨_, (Nat.add_sub_cancel' hbase).symm, hadm.1, rfl⟩
  · cases h
    exact .inl rfl

theorem ofOffset_eq_ctrl {off : Nat} (h : WindowReg.ofOffset off = .ctrl) : off = 0x0C := by
  unfold WindowReg.ofOffset at h
  split at h <;> cases h
  rfl

/-- With an error latched a write to any register but CTRL starts no command. -/
theorem hostWroteOnly_writeReg (he : s.err = true) {x : WindowReg} (hx : x ≠ .ctrl) (v : Word) :
    HostWroteOnly s (s.writeReg x v) := by
  cases x with
  | ctrl => exact absurd rfl hx
  | cmd =>
    have hdrop : s.writeReg .cmd v = s.drop :=
      writeCmd_of_not_ready fun ⟨_, hne⟩ => Bool.noConfusion (he.symm.trans hne)
    rw [hdrop]
    rfl
  | din =>
    rw [State.writeReg]
    obtain ⟨-, hw⟩ | hw := writeDin_cases s v <;> rw [hw] <;> rfl
  | _ => rfl

/-- With an error latched the engine is IDLE and has no turn; a reset and CTRL are the only ways out. -/
theorem hostWroteOnly_busEvent {ev : BusEvent} (he : s.err = true) (hp : s.phase = .idle)
    (hreset : ev ≠ .reset) (hctrl : ∀ v, ev ≠ .write (s.cfg.engineBase + 0x0C) 4 v)
    (h : busEvent ev s = .next t) : HostWroteOnly s t := by
  cases ev with
  | read addr bytes =>
    obtain ⟨-, v, rfl⟩ := hostRead_next h
    rfl
  | write addr bytes v =>
    obtain rfl | ⟨off, rfl, rfl, rfl⟩ := hostWrite_cases h
    · rfl
    · exact hostWroteOnly_writeReg he (fun hx => hctrl v (by rw [ofOffset_eq_ctrl hx])) v
  | reset => exact absurd rfl hreset
  | engine =>
    cases (engineTurn_of_idle hp).symm.trans h
    rfl

/-! ### The IRQ output (60_exceptions.md R292) -/

theorem irq_iff (s : State) :
    s.irq = true ↔ (s.done = true ∧ s.doneie = true) ∨ (s.err = true ∧ s.errie = true) := by
  simp [State.irq]

theorem done_of_exec (h : exec i s = .next t) : t.done = true := by
  obtain ⟨u, hu, -, hdone⟩ := exec_completes i s
  cases hu.symm.trans h
  exact hdone

theorem err_writeCtrl_of_clrerr {v : Word} (hsrst : v.getLsbD 0 = false) (hclr : v.getLsbD 1 = true) :
    (s.writeCtrl v).err = false := by
  rw [writeCtrl_of_not_srst hsrst]
  split
  · rfl
  · next hne => exact Bool.eq_false_iff.mpr fun he => hne ⟨hclr, he⟩

theorem doneie_writeCtrl {v : Word} (hsrst : v.getLsbD 0 = false) :
    (s.writeCtrl v).doneie = v.getLsbD 2 := by
  rw [writeCtrl_of_not_srst hsrst]
  split <;> rfl

end

/-- Settles O17: the answers of a command are the error commit, with a listed code, and commits that leave the
latch alone. -/
theorem errorCommitOfAListedErrorAlone : Obligations.ErrorCommitOfAListedErrorAlone := by
  refine ⟨fun i s t hs h => ⟨fun ht => ?_, latch_eq_of_exec h⟩, fun i s t hs h ht hw => ?_⟩
  · obtain ⟨c, rfl, -⟩ := errorCommit_of_exec hs h ht
    exact ⟨c.code, code_mem_legalCodes c, rfl⟩
  · obtain ⟨c, rfl, hcode⟩ := errorCommit_of_exec hs h ht
    exact hcode hw

/-- Settles O22: by the invariant a latched error means IDLE, and there only DONE, OVR and DIN can change. -/
theorem errorLatchHoldsUntilCleared : Obligations.ErrorLatchHoldsUntilCleared := by
  intro s t ev rest hinv he hagenda hreset hctrl hstep
  obtain ⟨hidle, -⟩ := hinv.errOn he
  rw [step_of_cons hagenda] at hstep
  have ht := hostWroteOnly_busEvent (s := { s with agenda := rest }) he hidle hreset hctrl hstep
  rw [ht]
  exact ⟨he, rfl, rfl, hidle, rfl, rfl, rfl, rfl, rfl, rfl, rfl, rfl⟩

/-- Settles O15: a completion sets DONE and leaves both enables, the STATUS write clears DONE and leaves ERR, and
the CTRL write clears DONEIE and ERR. -/
theorem irqFollowsDoneAndErr : Obligations.IrqFollowsDoneAndErr := by
  refine ⟨fun i s t h => ?_, fun s => ?_, fun s => ?_⟩
  · obtain ⟨-, hdoneie, herrie, -⟩ := hostSide_of_exec h
    simp [irq_iff, done_of_exec h, hdoneie, herrie]
  · simp [irq_iff, writeStatus_eq]
  · have herr : (s.writeCtrl 0xA).err = false := err_writeCtrl_of_clrerr rfl rfl
    have hdoneie : (s.writeCtrl 0xA).doneie = false := doneie_writeCtrl rfl
    rw [State.irq, herr, hdoneie, Bool.and_false, Bool.false_and, Bool.or_false]

end Sys2Proof.Machine
end
